-- ==== Sys2Proof/Word.lean ====
section
/-! DEFINITION. The bit widths of the block (00_scope.md R5): the tile word, an edge value, a command
word and its opcode field. Bit 0 is the least significant bit of each (R6); every value is unsigned (R7). -/

namespace Sys2Proof

/-- A 16-bit value: the tile word, `DATA`, `res` (R5: `WORD_WIDTH`, `DATA_WIDTH`, `RES_WIDTH`). -/
abbrev Word := BitVec 16

/-- A 5-bit edge value (R5: `EDGE_WIDTH`). -/
abbrev Edge := BitVec 5

/-- A 32-bit command word (R5: `CMD_WIDTH`). -/
abbrev Cmd := BitVec 32

/-- A 4-bit opcode (R5: `OP_WIDTH`). -/
abbrev OpCode := BitVec 4

end Sys2Proof
end

