-- ==== Sys2Proof/Machine/Bits.lean ====
section
/-! DEFINITION. The operators on 16-bit values (00_scope.md R8). -/

namespace Sys2Proof.Machine

/-- R7: `zext_16`. -/
def zext16 {n : Nat} (x : BitVec n) : Word := x.zeroExtend 16

/-- R8: the left rotation, for `0 < k < 16`. -/
def rotl16 (x : Word) (k : Nat) : Word := (x <<< k) ||| (x >>> (16 - k))

/-- R8: the right rotation, for `0 < k < 16`. -/
def rotr16 (x : Word) (k : Nat) : Word := rotl16 x (16 - k)

/-- R8: bit `i` of the result is bit `15 - i` of `x`. -/
def rev16 (x : Word) : Word := x.reverse

end Sys2Proof.Machine
end

