-- ==== Sys2Proof/Config.lean ====
section
/-! DEFINITION. The values the spec leaves open for the implementation: free values with no body, so
that no proof can see what they are. -/

namespace Sys2Proof

/-- `RESET_WORD` (00_scope.md R5, 10_state.md R32, U3): what `WORD` holds after a reset, "some 16-bit
value that no source fixes". The argument is the number of free values drawn before.
DESIGN CHOICE, log entry 1: unsafe where two resets with one draw number are compared, else safe. -/
opaque Config.resetWord : Nat → Word

/-- Whether a command in flight at the moment of a reset completed before it (70_reset_and_hazards.md
R171, U7: "The model admits both"). The argument is the number of free values drawn before.
DESIGN CHOICE, log entry 7: safe. -/
opaque Config.inFlightCompletes : Nat → Bool

end Sys2Proof
end

