-- ==== Sys2Proof/Machine/State.lean ====
section
/-! DEFINITION. The state of one block instance (10_state.md R20, R30; 60_exceptions.md R152), what the
outside world gives it and takes from it, the reasons a step can stop, and the state after reset. -/

namespace Sys2Proof.Machine

/-- 60_exceptions.md R151: the status of a response. -/
inductive Status where
  | ok
  | illegal
  deriving DecidableEq, Repr

/-- The response to one command (10_state.md R31). -/
structure Response where
  res : Word
  status : Status
  deriving DecidableEq, Repr

/-- What the outside world can do to an instance. -/
inductive HostEvent where
  /-- the host issues a command word (10_state.md R26) -/
  | command (c : Cmd)
  /-- the platform's reset signal, with no command in flight (70_reset_and_hazards.md R170) -/
  | reset
  /-- the platform's reset signal while command `c` is in flight (R171) -/
  | resetDuring (c : Cmd)
  deriving DecidableEq, Repr

/-- The faults of the model. -/
inductive Fault where
  /-- A command with opcode `op`, one that reads `WORD`, was issued before the first LOAD since reset
  (60_exceptions.md R151, R152).
  Raised by the strict view of a step only (`execStrict`, `stepStrict`), never by `exec` or `step`.
  Safe: the hardware has no such fault and goes on. -/
  | uninit (op : OpCode)
  deriving DecidableEq, Repr

/-- The refusals of the model. -/
inductive Refusal where
  /-- A command with no meaning. Raised by no arm of this model. Safe. -/
  | notModelled (mnemonic : String)
  /-- A host issues a command to an instance that another host owns (20_memory.md R49: refused).
  Raised by `Platform.issue` and `Platform.handOver` only. Safe. -/
  | uncoordinatedHosts
  /-- A platform addresses an instance it does not have (10_state.md R33). Raised by the operations of
  `Platform` only. Safe. -/
  | noSuchInstance
  deriving DecidableEq, Repr

/-- One block instance. `word` and `wvalid` are the spec's state; `uninitMark` is its model-only fault
mark; `response`, `input` and `draws` are the model's own. -/
structure State where
  /-- `WORD`, the tile word (10_state.md R20). -/
  word : Word
  /-- `WVALID`, model-only: `WORD` has been written by LOAD since reset (R30). -/
  wvalid : Bool
  /-- The model-only UNINIT fault mark with its opcode (60_exceptions.md R151, R152). -/
  uninitMark : Option OpCode
  /-- The response the host gets from the step just taken; not state of the block (R31, log entry 4). -/
  response : Option Response
  /-- What the outside world gives the instance next, oldest first (R48, log entry 3). -/
  input : List HostEvent
  /-- How many free values have been drawn (log entry 6). -/
  draws : Nat
  deriving DecidableEq, Repr

/-- The instance right after reset (10_state.md R32, 70_reset_and_hazards.md R170): `WORD` holds a free
value (DESIGN CHOICE, log entry 1) and `WVALID` is false; nothing has been issued yet. -/
def State.reset : State where
  word := Config.resetWord 0
  wvalid := false
  uninitMark := none
  response := none
  input := []
  draws := 1

end Sys2Proof.Machine
end

