-- ==== Sys2Proof/Machine/Flags.lean ====
section
/-! DEFINITION. The block has no flags and no condition codes (10_state.md R28). The one condition a
command computes, and how conditions and statuses are coded in a response, stand here. -/

namespace Sys2Proof.Machine

/-- 42_complementarity.md R130: two edge patterns fit when all five bits differ. -/
def fits (a b : Edge) : Bool := (a ^^^ b) == 0b11111#5

/-- R130, D7: true is returned as 1 and false as 0. -/
def boolRes (b : Bool) : Word := if b then 0x0001#16 else 0x0000#16

/-- 60_exceptions.md R151: the code of a status, 0 for OK and 1 for ILLEGAL. -/
def statusCode : Status → BitVec 1
  | .ok => 0#1
  | .illegal => 1#1

end Sys2Proof.Machine
end

