-- ==== Sys2Proof/Machine/Ops.lean ====
section
/-! DEFINITION. The operations on the state that every meaning is built from: responding, writing the
word, noting a read of an uninitialised word, and the two exceptions of the spec (60_exceptions.md R151). -/

namespace Sys2Proof.Machine

/-- `res <- r; status <- st` (00_scope.md R10). -/
def State.respond (s : State) (r : Word) (st : Status) : State :=
  { s with response := some ⟨r, st⟩ }

/-- `WORD <- w` (R10). -/
def State.writeWord (s : State) (w : Word) : State := { s with word := w }

/-- `WORD <- w; WVALID <- true` (40_edge_accessors.md R80). -/
def State.loadWord (s : State) (w : Word) : State := { s with word := w, wvalid := true }

/-- The exception UNINIT (60_exceptions.md R152), taken by every command that reads `WORD` while
`WVALID` is false: the fault mark is recorded together with the opcode, and the first one recorded
stays until reset. The hardware goes on with the value it holds, and so does the state (log entry 2);
the stop that R152 asks of a model is `strict`. -/
def State.noteRead (s : State) (op : OpCode) : State :=
  { s with uninitMark := if s.wvalid then s.uninitMark else some (s.uninitMark.getD op) }

/-- The exception ILLEGAL (43_control.md R141, 60_exceptions.md R155): a response and nothing else. No
return from it exists, and none is needed (R156). -/
def State.raiseIllegal (s : State) : State := s.respond 0x0000#16 .illegal

/-- The reset of 70_reset_and_hazards.md R170 and 10_state.md R32: `WORD` holds a value no rule fixes,
`WVALID` is false and the fault mark is cleared. What the outside world gives next is not touched. -/
def State.afterReset (s : State) : State :=
  { s with
    word := Config.resetWord s.draws
    wvalid := false
    uninitMark := none
    response := none
    draws := s.draws + 1 }

/-- One free value has been drawn (log entry 6). -/
def State.drawn (s : State) : State := { s with draws := s.draws + 1 }

/-- The response that the host may have got of a command that completed before a reset (R171). -/
def State.withResponse (s : State) (r : Option Response) : State := { s with response := r }

/-- The events still to come. -/
def State.withInput (s : State) (es : List HostEvent) : State := { s with input := es }

/-- The block waits for the host and holds `WORD` (60_exceptions.md R162, 20_memory.md R46); the host has
taken the last response (10_state.md R31). Log entry 5. -/
def State.idle (s : State) : State := { s with response := none }

end Sys2Proof.Machine
end

