-- ==== Sys2Proof/Machine/Complementarity.lean ====
section
/-! DEFINITION. 42_complementarity.md: EDGES_FIT. -/

namespace Sys2Proof.Machine

/-- R130: reads neither `WORD` nor `WVALID`. -/
def execEdgesFit (a b : Edge) (s : State) : Host.Outcome State Fault Refusal :=
  .next (s.respond (boolRes (fits a b)) .ok)

end Sys2Proof.Machine
end

