-- ==== Sys2Proof/Machine/Control.lean ====
section
/-! DEFINITION. 43_control.md: NOP and the command words that spell no command. -/

namespace Sys2Proof.Machine

/-- R140. -/
def execNop (s : State) : Host.Outcome State Fault Refusal :=
  .next (s.respond 0x0000#16 .ok)

/-- R141: any command word that 30_encoding.md R64 does not accept. -/
def runIllegal (s : State) : Host.Outcome State Fault Refusal :=
  .next s.raiseIllegal

end Sys2Proof.Machine
end

