-- ==== Sys2Proof/Syntax.lean ====
section
/-! DEFINITION. The commands of PTEA-1: one constructor for each row of spec/opcode_table.json
(30_encoding.md R63), with the operands of its layout (R61). -/

namespace Sys2Proof

/-- A legal command. `w` is LOAD's seed; `d` is a setter's 16-bit `DATA` operand as the assembler
writes it (R68), of which the command itself takes the low five bits (R62, R82); `a` and `b` are the
5-bit patterns of EDGES_FIT. Bits that no rule lets a command use are not part of it (R65). -/
inductive Instr where
  | nop
  | load (w : Word)
  | getTop
  | setTop (d : Word)
  | getRight
  | setRight (d : Word)
  | getBottom
  | setBottom (d : Word)
  | getLeft
  | setLeft (d : Word)
  | rotateCw
  | flipV
  | readWord
  | edgesFit (a b : Edge)
  deriving DecidableEq, Repr

end Sys2Proof
end

