-- ==== Sys2Proof/WellFormed.lean ====
section
/-! DEFINITION. Which command words are legal (30_encoding.md R64) and which assembly lines the
assembler accepts (R68). A term of `Instr` needs no check: its operand types are exactly the operand
widths of R61. -/

namespace Sys2Proof

/-- R64, first check: the opcode is assigned, `cmd[3:0] <= 0xD`. -/
def opcodeAssigned (c : Cmd) : Bool := decide ((c.extractLsb' 0 4).toNat ≤ 0xD)

/-- R64, second check: the reserved field is zero, `cmd[15:4] == 0`. -/
def reservedFieldZero (c : Cmd) : Bool := c.extractLsb' 4 12 == 0#12

/-- R64: the legal command words. -/
def legalCommand (c : Cmd) : Bool := opcodeAssigned c && reservedFieldZero c

/-- One line of assembly with its operands as numbers, before any range check: the fourteen commands
(R68) and the three pseudo-instructions (R69). -/
inductive AsmLine where
  | nop
  | load (w : Nat)
  | getTop
  | setTop (d : Nat)
  | getRight
  | setRight (d : Nat)
  | getBottom
  | setBottom (d : Nat)
  | getLeft
  | setLeft (d : Nat)
  | rotateCw
  | flipV
  | readWord
  | edgesFit (a b : Nat)
  | clear
  | rotate180
  | rotateCcw
  deriving DecidableEq, Repr

/-- R68: the operand ranges the assembler accepts. -/
def AsmLine.wellFormed : AsmLine → Bool
  | .load w => decide (w ≤ 0xFFFF)
  | .setTop d => decide (d ≤ 0xFFFF)
  | .setRight d => decide (d ≤ 0xFFFF)
  | .setBottom d => decide (d ≤ 0xFFFF)
  | .setLeft d => decide (d ≤ 0xFFFF)
  | .edgesFit a b => decide (a ≤ 31) && decide (b ≤ 31)
  | .nop => true
  | .getTop => true
  | .getRight => true
  | .getBottom => true
  | .getLeft => true
  | .rotateCw => true
  | .flipV => true
  | .readWord => true
  | .clear => true
  | .rotate180 => true
  | .rotateCcw => true

end Sys2Proof
end

