-- ==== Sys2Proof/Decode.lean ====
section
/-! DEFINITION. The command encoding (30_encoding.md R60–R70): the decoder, total on the 2^32 command
words and on any bytes, and after it the encoder and the assembler's words. -/

namespace Sys2Proof

/-- R60: `OP = cmd[3:0]`. -/
def opField (c : Cmd) : OpCode := c.extractLsb' 0 4

/-- R60: `RSV = cmd[15:4]`. -/
def rsvField (c : Cmd) : BitVec 12 := c.extractLsb' 4 12

/-- R60: `DATA = cmd[31:16]`. -/
def dataField (c : Cmd) : Word := c.extractLsb' 16 16

/-- R61, layout AB: `a = DATA[4:0]`. -/
def fitFieldA (data : Word) : Edge := data.extractLsb' 0 5

/-- R61, layout AB: `b = DATA[12:8]`. -/
def fitFieldB (data : Word) : Edge := data.extractLsb' 8 5

/-- Why a command is not legal (R64, R66). `wrongLength` is for a sequence of bytes that is no
32-bit command word (R67); a command word itself is never of the wrong length. -/
inductive Reject where
  | reservedOpcode
  | reservedField
  | wrongLength
  deriving DecidableEq, Repr

/-- What the decoder answers. -/
inductive Decoded where
  | accept (i : Instr)
  | reject (r : Reject)
  deriving DecidableEq, Repr

/-- R63: the opcode map, with the operand layouts of R61. -/
def decodeRow (op : OpCode) (data : Word) : Decoded :=
  match op.toNat with
  | 0x0 => .accept .nop
  | 0x1 => .accept (.load data)
  | 0x2 => .accept .getTop
  | 0x3 => .accept (.setTop data)
  | 0x4 => .accept .getRight
  | 0x5 => .accept (.setRight data)
  | 0x6 => .accept .getBottom
  | 0x7 => .accept (.setBottom data)
  | 0x8 => .accept .getLeft
  | 0x9 => .accept (.setLeft data)
  | 0xA => .accept .rotateCw
  | 0xB => .accept .flipV
  | 0xC => .accept .readWord
  | 0xD => .accept (.edgesFit (fitFieldA data) (fitFieldB data))
  | _ => .reject .reservedOpcode

/-- R64: the decoder. A word with `RSV` not zero is illegal whatever its opcode (R66). -/
def decode (c : Cmd) : Decoded :=
  if rsvField c = 0#12 then decodeRow (opField c) (dataField c) else .reject .reservedField

/-- How a host splits a command word into bytes: the host's parameter (20_memory.md R41, U12), so an
argument here. -/
inductive ByteOrder where
  | leastSignificantFirst
  | mostSignificantFirst
  deriving DecidableEq, Repr

/-- A command word from its four bytes, in the host's byte order. -/
def cmdOfBytes (o : ByteOrder) (b0 b1 b2 b3 : BitVec 8) : Cmd :=
  match o with
  | .leastSignificantFirst => b3 ++ b2 ++ b1 ++ b0
  | .mostSignificantFirst => b0 ++ b1 ++ b2 ++ b3

/-- The decoder on bytes: four bytes are one command word (R67), any other number is none. -/
def decodeBytes (o : ByteOrder) : List (BitVec 8) → Decoded
  | [b0, b1, b2, b3] => decode (cmdOfBytes o b0 b1 b2 b3)
  | _ => .reject .wrongLength

/-- R63: the opcode of each command. -/
def opcodeOf : Instr → OpCode
  | .nop => 0x0#4
  | .load _ => 0x1#4
  | .getTop => 0x2#4
  | .setTop _ => 0x3#4
  | .getRight => 0x4#4
  | .setRight _ => 0x5#4
  | .getBottom => 0x6#4
  | .setBottom _ => 0x7#4
  | .getLeft => 0x8#4
  | .setLeft _ => 0x9#4
  | .rotateCw => 0xA#4
  | .flipV => 0xB#4
  | .readWord => 0xC#4
  | .edgesFit _ _ => 0xD#4

/-- The `DATA` field the assembler writes for each command (R68): zero in every ignored bit. -/
def dataOf : Instr → Word
  | .load w => w
  | .setTop d => d
  | .setRight d => d
  | .setBottom d => d
  | .setLeft d => d
  | .edgesFit a b => (b.zeroExtend 16 <<< 8) ||| a.zeroExtend 16
  | .nop => 0#16
  | .getTop => 0#16
  | .getRight => 0#16
  | .getBottom => 0#16
  | .getLeft => 0#16
  | .rotateCw => 0#16
  | .flipV => 0#16
  | .readWord => 0#16

/-- The encoder: `DATA`, a zero `RSV`, the opcode (R60, R68). -/
def encode (i : Instr) : Cmd := dataOf i ++ 0#12 ++ opcodeOf i

/-- The commands an assembly line stands for (R68, R69); none where an operand is out of range. -/
def assembleInstrs (l : AsmLine) : Option (List Instr) :=
  if l.wellFormed then
    match l with
    | .nop => some [.nop]
    | .load w => some [.load (BitVec.ofNat 16 w)]
    | .getTop => some [.getTop]
    | .setTop d => some [.setTop (BitVec.ofNat 16 d)]
    | .getRight => some [.getRight]
    | .setRight d => some [.setRight (BitVec.ofNat 16 d)]
    | .getBottom => some [.getBottom]
    | .setBottom d => some [.setBottom (BitVec.ofNat 16 d)]
    | .getLeft => some [.getLeft]
    | .setLeft d => some [.setLeft (BitVec.ofNat 16 d)]
    | .rotateCw => some [.rotateCw]
    | .flipV => some [.flipV]
    | .readWord => some [.readWord]
    | .edgesFit a b => some [.edgesFit (BitVec.ofNat 5 a) (BitVec.ofNat 5 b)]
    | .clear => some [.load 0x0000#16]
    | .rotate180 => some [.rotateCw, .rotateCw]
    | .rotateCcw => some [.rotateCw, .rotateCw, .rotateCw]
  else none

/-- The command words of an assembly line (R68, R69). -/
def assemble (l : AsmLine) : Option (List Cmd) := (assembleInstrs l).map (List.map encode)

/-- The command word whose low `nbits` bits are those of `w` and whose other bits are zero: how
spec/opcode_table.json numbers a command (bit 0 is the least significant, R6). -/
def tableCommand (nbits w : Nat) : Cmd := BitVec.ofNat 32 (w % 2 ^ nbits)

/-- The command the decoder reads from a word of the opcode table. There is one length, 32 bits (R67). -/
def decodeTableWord (nbits w : Nat) : Option Instr :=
  if nbits ≤ 32 then
    match decode (tableCommand nbits w) with
    | .accept i => some i
    | .reject _ => none
  else none

end Sys2Proof
end

