-- ==== Sys2Proof/Machine/Operands.lean ====
section
/-! DEFINITION. The four edge views of the word and how each is written (10_state.md R21, R22;
40_edge_accessors.md R81–R88), and a setter's operand (30_encoding.md R62). -/

namespace Sys2Proof.Machine

/-- R62: a setter's `v = DATA[4:0]`; wider values are masked, never rejected. -/
def edgeOperand (d : Word) : Edge := d.extractLsb' 0 5

/-- R21, R81: `WORD[4:0]`. -/
def topOf (w : Word) : Edge := w.extractLsb' 0 5

/-- R21, R83: `WORD[8:4]`. -/
def rightOf (w : Word) : Edge := w.extractLsb' 4 5

/-- R21, R85: `WORD[12:8]`. -/
def bottomOf (w : Word) : Edge := w.extractLsb' 8 5

/-- R21, R87: word bit 0 above word bits 15..12. -/
def leftOf (w : Word) : Edge := w.extractLsb' 0 1 ++ w.extractLsb' 12 4

/-- R82: clear bits 4..0, OR in `v`. -/
def withTop (w : Word) (v : Edge) : Word := (w &&& 0xFFE0#16) ||| zext16 v

/-- R84: clear bits 8..4, OR in `v << 4`. -/
def withRight (w : Word) (v : Edge) : Word := (w &&& 0xFE0F#16) ||| (zext16 v <<< 4)

/-- R86: clear bits 12..8, OR in `v << 8`. -/
def withBottom (w : Word) (v : Edge) : Word := (w &&& 0xE0FF#16) ||| (zext16 v <<< 8)

/-- R88: clear bits 15..12 and bit 0, OR in `v[3:0] << 12` and `v[4]`, in one update. -/
def withLeft (w : Word) (v : Edge) : Word :=
  (w &&& 0x0FFE#16) ||| (zext16 (v.extractLsb' 0 4) <<< 12) ||| zext16 (v.extractLsb' 4 1)

end Sys2Proof.Machine
end

