-- ==== Sys2Proof/Machine/EdgeAccessors.lean ====
section
/-! DEFINITION. 40_edge_accessors.md: LOAD, the four getters and the four setters. -/

namespace Sys2Proof.Machine

/-- The shape of every command that returns a value computed from `WORD` and writes nothing
(R81, R83, R85, R87, 41_transformations.md R116). -/
def readCommand (op : OpCode) (view : Word → Word) (s : State) : Host.Outcome State Fault Refusal :=
  .next ((s.noteRead op).respond (view s.word) .ok)

/-- The shape of every command that computes the new `WORD` from the old one and returns it
(R82, R84, R86, R88, R110, R113): one indivisible update (20_memory.md R43, R51). -/
def updateCommand (op : OpCode) (f : Word → Word) (s : State) : Host.Outcome State Fault Refusal :=
  .next (((s.noteRead op).writeWord (f s.word)).respond (f s.word) .ok)

/-- R80. -/
def execLoad (w : Word) (s : State) : Host.Outcome State Fault Refusal :=
  .next ((s.loadWord w).respond w .ok)

/-- R81. -/
def execGetTop (s : State) : Host.Outcome State Fault Refusal :=
  readCommand (opcodeOf .getTop) (fun w => zext16 (topOf w)) s

/-- R82. -/
def execSetTop (d : Word) (s : State) : Host.Outcome State Fault Refusal :=
  updateCommand (opcodeOf (.setTop d)) (fun w => withTop w (edgeOperand d)) s

/-- R83. -/
def execGetRight (s : State) : Host.Outcome State Fault Refusal :=
  readCommand (opcodeOf .getRight) (fun w => zext16 (rightOf w)) s

/-- R84. -/
def execSetRight (d : Word) (s : State) : Host.Outcome State Fault Refusal :=
  updateCommand (opcodeOf (.setRight d)) (fun w => withRight w (edgeOperand d)) s

/-- R85. -/
def execGetBottom (s : State) : Host.Outcome State Fault Refusal :=
  readCommand (opcodeOf .getBottom) (fun w => zext16 (bottomOf w)) s

/-- R86. -/
def execSetBottom (d : Word) (s : State) : Host.Outcome State Fault Refusal :=
  updateCommand (opcodeOf (.setBottom d)) (fun w => withBottom w (edgeOperand d)) s

/-- R87. -/
def execGetLeft (s : State) : Host.Outcome State Fault Refusal :=
  readCommand (opcodeOf .getLeft) (fun w => zext16 (leftOf w)) s

/-- R88. -/
def execSetLeft (d : Word) (s : State) : Host.Outcome State Fault Refusal :=
  updateCommand (opcodeOf (.setLeft d)) (fun w => withLeft w (edgeOperand d)) s

end Sys2Proof.Machine
end

