-- ==== Sys2Proof/Machine/Transformations.lean ====
section
/-! DEFINITION. 41_transformations.md: ROTATE_CW, FLIP_V and READ_WORD. -/

namespace Sys2Proof.Machine

/-- R110: a rotation left by 4. -/
def rotateWord (w : Word) : Word := rotl16 w 4

/-- R113: the 16 bits reversed, then rotated right by 5 (the formula of 90_conflicts.md C5). -/
def flipWord (w : Word) : Word := rotr16 (rev16 w) 5

/-- R110. -/
def execRotateCw (s : State) : Host.Outcome State Fault Refusal :=
  updateCommand (opcodeOf .rotateCw) rotateWord s

/-- R113. -/
def execFlipV (s : State) : Host.Outcome State Fault Refusal :=
  updateCommand (opcodeOf .flipV) flipWord s

/-- R116. -/
def execReadWord (s : State) : Host.Outcome State Fault Refusal :=
  readCommand (opcodeOf .readWord) (fun w => w) s

end Sys2Proof.Machine
end

