-- ==== Sys2Proof/Machine/Dispatch.lean ====
section
/-! DEFINITION. The meaning of each command of spec/opcode_table.json, one arm each. -/

namespace Sys2Proof.Machine

def exec (i : Instr) (s : State) : Host.Outcome State Fault Refusal :=
  match i with
  | .nop => Sys2Proof.Machine.execNop s
  | .load w => Sys2Proof.Machine.execLoad w s
  | .getTop => Sys2Proof.Machine.execGetTop s
  | .setTop d => Sys2Proof.Machine.execSetTop d s
  | .getRight => Sys2Proof.Machine.execGetRight s
  | .setRight d => Sys2Proof.Machine.execSetRight d s
  | .getBottom => Sys2Proof.Machine.execGetBottom s
  | .setBottom d => Sys2Proof.Machine.execSetBottom d s
  | .getLeft => Sys2Proof.Machine.execGetLeft s
  | .setLeft d => Sys2Proof.Machine.execSetLeft d s
  | .rotateCw => Sys2Proof.Machine.execRotateCw s
  | .flipV => Sys2Proof.Machine.execFlipV s
  | .readWord => Sys2Proof.Machine.execReadWord s
  | .edgesFit a b => Sys2Proof.Machine.execEdgesFit a b s

end Sys2Proof.Machine
end

