-- ==== Sys2Proof/Machine/Deliver.lean ====
section
/-! DEFINITION. What one event of the outside world does to an instance: a command word is decoded and
run (30_encoding.md R64, 43_control.md R141), a reset resets (70_reset_and_hazards.md R170, R171). -/

namespace Sys2Proof.Machine

/-- R64, R154: legality is decided on the bits alone, before the command runs. -/
def runCommand (c : Cmd) (s : State) : Host.Outcome State Fault Refusal :=
  match decode c with
  | .accept i => exec i s
  | .reject _ => runIllegal s

/-- R171: a command in flight at the moment of reset either completed before it, and the host may have
its response, or never started. A free value decides (log entry 7); both end in the reset state. -/
def resetInFlight (c : Cmd) (s : State) : Host.Outcome State Fault Refusal :=
  match Config.inFlightCompletes s.draws with
  | true =>
    match runCommand c s.drawn with
    | .next t => .next (t.afterReset.withResponse t.response)
    | .fault r => .fault r
    | .refused r => .refused r
  | false => .next s.drawn.afterReset

/-- One event takes effect, whole (20_memory.md R43, R48). -/
def deliver (e : HostEvent) (s : State) : Host.Outcome State Fault Refusal :=
  match e with
  | .command c => runCommand c s
  | .reset => .next s.afterReset
  | .resetDuring c => resetInFlight c s

/-- The next event, if the outside world has given one; otherwise the block waits (log entry 5). -/
def advance (s : State) : Host.Outcome State Fault Refusal :=
  match s.input with
  | [] => .next s.idle
  | e :: es => deliver e (s.withInput es)

/-- The host issues `c` as the very next command (log entry 9). -/
def State.issueNext (s : State) (c : Cmd) : State := s.withInput (.command c :: s.input)

end Sys2Proof.Machine
end

