-- ==== Sys2Proof/Machine/Step.lean ====
section
/-! DEFINITION. One step of an instance: one event of the outside world (20_memory.md R48;
70_reset_and_hazards.md R177: each command is one step). -/

namespace Sys2Proof.Machine

def step (s : State) : Host.Outcome State Fault Refusal := advance s

/-- `s` with the command of the opcode table's word `w` as the next command its host issues. The block
fetches nothing (10_state.md R26): commands come from the host (log entry 9). -/
def State.withFetchWord (s : State) (nbits w : Nat) : State := s.issueNext (tableCommand nbits w)

end Sys2Proof.Machine
end

