-- ==== Sys2Proof/Machine/Assembler.lean ====
section
/-! DEFINITION. The assembler's text (30_encoding.md R68, literals of 00_scope.md R11): one command a line,
the mnemonic of R63 or a pseudo-instruction of R69, then operands separated by commas, each a number after
`#`; a semicolon starts a comment. -/

namespace Sys2Proof.Machine

/-- The value of a digit of base at most sixteen (R11). -/
def digitOf (c : Char) : Option Nat :=
  let n := c.toNat
  if 48 ≤ n ∧ n ≤ 57 then some (n - 48)
  else if 65 ≤ n ∧ n ≤ 70 then some (n - 55)
  else if 97 ≤ n ∧ n ≤ 102 then some (n - 87)
  else none

/-- The digits of a number; an underscore between two digits has no value (R11). `afterDigit` says that
the character before was a digit. -/
def parseDigits (base : Nat) : List Char → Bool → Nat → Option Nat
  | [], true, acc => some acc
  | [], false, _ => none
  | c :: cs, afterDigit, acc =>
    if c = '_' then
      if afterDigit then parseDigits base cs false acc else none
    else
      match digitOf c with
      | some d => if d < base then parseDigits base cs true (acc * base + d) else none
      | none => none

/-- A decimal, hexadecimal or binary number (R11, R68). -/
def parseNumber : List Char → Option Nat
  | '0' :: 'x' :: ds => parseDigits 16 ds false 0
  | '0' :: 'b' :: ds => parseDigits 2 ds false 0
  | ds => parseDigits 10 ds false 0

/-- The spaces around a piece of text are dropped (log entry 12). -/
def trimSpaces (cs : List Char) : List Char :=
  ((cs.dropWhile (· = ' ')).reverse.dropWhile (· = ' ')).reverse

/-- The pieces between commas. -/
def splitCommas : List Char → List (List Char)
  | [] => [[]]
  | c :: cs =>
    if c = ',' then [] :: splitCommas cs
    else
      match splitCommas cs with
      | [] => [[c]]
      | p :: ps => (c :: p) :: ps

/-- One operand: `#` and a number. -/
def parseOperand (cs : List Char) : Option Nat :=
  match trimSpaces cs with
  | '#' :: ds => parseNumber ds
  | _ => none

/-- The operands of a line. -/
def parseOperands (cs : List Char) : Option (List Nat) :=
  match trimSpaces cs with
  | [] => some []
  | ds => (splitCommas ds).mapM parseOperand

/-- R63, R69: the mnemonics, with as many operands as each layout of R68 has. -/
def lineOf (mnemonic : String) (ops : List Nat) : Option AsmLine :=
  match mnemonic, ops with
  | "NOP", [] => some .nop
  | "LOAD", [w] => some (.load w)
  | "GET_TOP", [] => some .getTop
  | "SET_TOP", [d] => some (.setTop d)
  | "GET_RIGHT", [] => some .getRight
  | "SET_RIGHT", [d] => some (.setRight d)
  | "GET_BOTTOM", [] => some .getBottom
  | "SET_BOTTOM", [d] => some (.setBottom d)
  | "GET_LEFT", [] => some .getLeft
  | "SET_LEFT", [d] => some (.setLeft d)
  | "ROTATE_CW", [] => some .rotateCw
  | "FLIP_V", [] => some .flipV
  | "READ_WORD", [] => some .readWord
  | "EDGES_FIT", [a, b] => some (.edgesFit a b)
  | "CLEAR", [] => some .clear
  | "ROTATE_180", [] => some .rotate180
  | "ROTATE_CCW", [] => some .rotateCcw
  | _, _ => none

/-- A line of text: none where it is malformed, an empty list where it holds no command (a comment). -/
def parseLine (cs : List Char) : Option (List AsmLine) :=
  match trimSpaces (cs.takeWhile (· ≠ ';')) with
  | [] => some []
  | body => do
    let ops ← parseOperands (body.dropWhile (· ≠ ' '))
    let l ← lineOf (String.ofList (body.takeWhile (· ≠ ' '))) ops
    return [l]

/-- The command words of one line of text (R68). -/
def assembleText (line : String) : Option (List Cmd) := do
  let ls ← parseLine line.toList
  let words ← ls.mapM assemble
  return words.flatten

/-- The command words of a program, one line after another (R68). -/
def assembleProgram (lines : List String) : Option (List Cmd) := do
  let words ← lines.mapM assembleText
  return words.flatten

end Sys2Proof.Machine
end

