-- ==== Sys2Proof/Machine/Platform.lean ====
section
/-! DEFINITION. A platform of `N_TILES` independent instances (10_state.md R33, 60_exceptions.md R160),
each owned by one host at a time (20_memory.md R49). How a platform addresses its instances is outside
the spec; here an instance is its place in a list (log entry 10). -/

namespace Sys2Proof.Machine

/-- One instance and the host that owns it (R49; hosts are numbered, log entry 11). -/
structure Owned where
  owner : Nat
  block : State
  deriving DecidableEq, Repr

/-- A platform: its length is `N_TILES`. -/
structure Platform where
  tiles : List Owned
  deriving DecidableEq, Repr

/-- A platform after reset: every instance in the reset state, instance `k` owned by `owners[k]`. -/
def Platform.atReset (owners : List Nat) : Platform := ⟨owners.map fun h => ⟨h, State.reset⟩⟩

/-- Host `h` gives instance `k` a command, after those it has given before (R48). A command from a host
that does not own the instance is refused (R49). -/
def Platform.issue (p : Platform) (h k : Nat) (c : Cmd) : Host.Outcome Platform Fault Refusal :=
  match p.tiles[k]? with
  | none => .refused .noSuchInstance
  | some o =>
    if o.owner = h then
      .next ⟨p.tiles.set k { o with block := o.block.withInput (o.block.input ++ [.command c]) }⟩
    else .refused .uncoordinatedHosts

/-- The owner `h` of instance `k` gives it over to host `h'`: the external coordination of R49. -/
def Platform.handOver (p : Platform) (h k h' : Nat) : Host.Outcome Platform Fault Refusal :=
  match p.tiles[k]? with
  | none => .refused .noSuchInstance
  | some o =>
    if o.owner = h then .next ⟨p.tiles.set k { o with owner := h' }⟩
    else .refused .uncoordinatedHosts

/-- The platform's reset signal reaches every instance (70_reset_and_hazards.md R170), after what each
has been given before. -/
def Platform.signalReset (p : Platform) : Platform :=
  ⟨p.tiles.map fun o => { o with block := o.block.withInput (o.block.input ++ [.reset]) }⟩

/-- Instance `k` takes one step; no other instance is touched (R33). -/
def Platform.stepAt (p : Platform) (k : Nat) : Host.Outcome Platform Fault Refusal :=
  match p.tiles[k]? with
  | none => .refused .noSuchInstance
  | some o =>
    match step o.block with
    | .next t => .next ⟨p.tiles.set k { o with block := t }⟩
    | .fault r => .fault r
    | .refused r => .refused r

end Sys2Proof.Machine
end

