-- ==== Sys2Proof/Machine/Render.lean ====
section
/-! DEFINITION. The host's rendering of READ_WORD's `res` as text (41_transformations.md R117). -/

namespace Sys2Proof.Machine

/-- R117: sixteen characters, the most significant bit first. -/
def render (res : Word) : List Char :=
  (List.range 16).map fun k => if res.getLsbD (15 - k) then '1' else '0'

end Sys2Proof.Machine
end

