-- ==== Sys2Proof/Machine/Sequence.lean ====
section
/-! DEFINITION. Commands one after another (20_memory.md R48): each sees the state the one before it left. -/

namespace Sys2Proof.Machine

/-- R48: the commands take effect one at a time, in the order given. -/
def execSeq : List Instr → State → Host.Outcome State Fault Refusal
  | [], s => .next s
  | i :: is, s =>
    match exec i s with
    | .next t => execSeq is t
    | .fault r => .fault r
    | .refused r => .refused r

end Sys2Proof.Machine
end

