-- ==== Sys2Proof/Machine/Sides.lean ====
section
/-! DEFINITION. The four sides of a tile in clockwise order (00_scope.md R5, R12), the commands that read
and write each, and the word bits each edge holds (10_state.md R21–R23). The laws that hold of all four
edges are stated once over these. -/

namespace Sys2Proof.Machine

/-- R12: the four edges, in clockwise order. -/
inductive Side where
  | top
  | right
  | bottom
  | left
  deriving DecidableEq, Repr

/-- The side that follows clockwise; the two share one word bit (R22). -/
def clockwise : Side → Side
  | .top => .right
  | .right => .bottom
  | .bottom => .left
  | .left => .top

/-- The word bit that holds bit 0 of an edge (R23). -/
def firstBit : Side → Nat
  | .top => 0
  | .right => 4
  | .bottom => 8
  | .left => 12

/-- R23: the word bit that holds bit `i` of an edge. Left wraps round: its bit 4 is word bit 0. -/
def wordBit (x : Side) (i : Nat) : Nat := (firstBit x + i) % 16

/-- R12, R21: word bit `j` belongs to the edge. -/
def inSpan (x : Side) (j : Nat) : Bool := (List.range 5).any fun i => wordBit x i == j

/-- The command that reads an edge. -/
def getSide : Side → Instr
  | .top => .getTop
  | .right => .getRight
  | .bottom => .getBottom
  | .left => .getLeft

/-- The command that writes an edge with `DATA` operand `d`. -/
def setSide (x : Side) (d : Word) : Instr :=
  match x with
  | .top => .setTop d
  | .right => .setRight d
  | .bottom => .setBottom d
  | .left => .setLeft d

end Sys2Proof.Machine
end

