-- ==== Sys2Proof/Machine/Transcript.lean ====
section
/-! DEFINITION. "The observable history of an instance is the sequence of (command, response) pairs"
(20_memory.md R48). -/

namespace Sys2Proof.Machine

/-- `k` steps of the instance, as the host takes them (R48). -/
def runSteps : Nat → State → Host.Outcome State Fault Refusal
  | 0, s => .next s
  | k + 1, s =>
    match step s with
    | .next t => runSteps k t
    | .fault r => .fault r
    | .refused r => .refused r

/-- The command of an event, if it has one. -/
def HostEvent.command? : HostEvent → Option Cmd
  | .command c => some c
  | .reset => none
  | .resetDuring c => some c

/-- What the host sees of a step that took event `e` and ended in `t`. -/
def observation (e : HostEvent) (t : State) : List (Cmd × Response) :=
  match e.command?, t.response with
  | some c, some r => [(c, r)]
  | _, _ => []

/-- The (command, response) pairs of the first `k` steps. -/
def transcript : Nat → State → List (Cmd × Response)
  | 0, _ => []
  | k + 1, s =>
    match step s with
    | .next t => (s.input.head?.elim [] fun e => observation e t) ++ transcript k t
    | .fault _ => []
    | .refused _ => []

end Sys2Proof.Machine
end

