-- ==== Sys2Proof/Machine/Uninit.lean ====
section
/-! DEFINITION. The strict view of a step: the model-only fault UNINIT exactly as 60_exceptions.md R152
words it. A claim about an initialised block is a claim about this view (log entry 2). -/

namespace Sys2Proof.Machine

/-- 10_state.md R25, 60_exceptions.md R151: the commands that read `WORD`. -/
def readsWord : Instr → Bool
  | .nop => false
  | .load _ => false
  | .getTop => true
  | .setTop _ => true
  | .getRight => true
  | .setRight _ => true
  | .getBottom => true
  | .setBottom _ => true
  | .getLeft => true
  | .setLeft _ => true
  | .rotateCw => true
  | .flipV => true
  | .readWord => true
  | .edgesFit _ _ => false

/-- R152: a state with the fault mark is never a next state: the instance has stopped. -/
def strict : Host.Outcome State Fault Refusal → Host.Outcome State Fault Refusal
  | .next t =>
    match t.uninitMark with
    | none => .next t
    | some op => .fault (.uninit op)
  | .fault r => .fault r
  | .refused r => .refused r

/-- A command in the strict view: `raise UNINIT(op)` ends it (00_scope.md R10). -/
def execStrict (i : Instr) (s : State) : Host.Outcome State Fault Refusal := strict (exec i s)

/-- R151, R154: the opcode of `c`, if `c` is a legal command that reads `WORD` and is issued while `WVALID`,
given as `v`, is false. -/
def unloadedRead (v : Bool) (c : Cmd) : Option OpCode :=
  match decode c with
  | .accept i => if v || !readsWord i then none else some (opcodeOf i)
  | .reject _ => none

/-- R172, R171: the opcode under which a state faults because a command that reads `WORD` was issued before
LOAD and is in flight when the reset arrives. The cause of UNINIT is that it was issued (R151), so it counts
whether or not it completed (log entry 7). The first opcode recorded stays, as in `State.noteRead`. -/
def uninitInFlight (s : State) : Option OpCode :=
  match s.input with
  | [] => none
  | .command _ :: _ => none
  | .reset :: _ => none
  | .resetDuring c :: _ => (unloadedRead s.wvalid c).map s.uninitMark.getD

/-- A step in the strict view. Nothing but reset gets a stopped instance going again (R152, R170), and the
reset itself does not hide that a command read `WORD` before LOAD (R172). -/
def stepStrict (s : State) : Host.Outcome State Fault Refusal :=
  match uninitInFlight s with
  | none => strict (step s)
  | some op => .fault (.uninit op)

/-- `k` steps in the strict view, ending at the first fault. -/
def runStrict : Nat → State → Host.Outcome State Fault Refusal
  | 0, s => .next s
  | k + 1, s =>
    match stepStrict s with
    | .next t => runStrict k t
    | .fault r => .fault r
    | .refused r => .refused r

end Sys2Proof.Machine
end

