-- ==== Sys2Proof/Safety.lean ====
section
/-! DEFINITION. What counts as a safe run: one in which the boot requirement is met (70_reset_and_hazards.md
R172), so that no command reads an uninitialised word; and the invariants claims use. -/

namespace Sys2Proof.Machine

/-- An event that is a plain command. -/
def HostEvent.isCommand : HostEvent → Bool
  | .command _ => true
  | .reset => false
  | .resetDuring _ => false

/-- LOAD, the command that ends the uninitialised state (40_edge_accessors.md R80). -/
def isLoad : Instr → Bool
  | .load _ => true
  | .nop => false
  | .getTop => false
  | .setTop _ => false
  | .getRight => false
  | .setRight _ => false
  | .getBottom => false
  | .setBottom _ => false
  | .getLeft => false
  | .setLeft _ => false
  | .rotateCw => false
  | .flipV => false
  | .readWord => false
  | .edgesFit _ _ => false

/-- The words of a legal LOAD. -/
def loadsWord (c : Cmd) : Bool :=
  match decode c with
  | .accept i => isLoad i
  | .reject _ => false

/-- R172: in this sequence of events LOAD comes, after each reset, before any command that reads `WORD` is
issued, a command in flight when the next reset arrives included. The first argument is `WVALID` before the
events. -/
def loadFirst : Bool → List HostEvent → Bool
  | _, [] => true
  | v, .command c :: es => (unloadedRead v c).isNone && loadFirst (v || loadsWord c) es
  | _, .reset :: es => loadFirst false es
  | v, .resetDuring c :: es => (unloadedRead v c).isNone && loadFirst false es

/-- A program (the events a host gives an instance after reset) that counts as safe: it meets the boot
requirement (R172) and issues no illegal word (93_implementation_defined.md U4: a program that issues one
counts as failed, though the block goes on, 43_control.md R141). -/
def safeProgram (es : List HostEvent) : Bool :=
  loadFirst false es && es.all fun
    | .command c => legalCommand c
    | .reset => true
    | .resetDuring c => legalCommand c

/-- The state in which every rule of files 40–43 holds as written (R172): the word has been loaded, no
uninitialised read is on record, and no reset is under way. -/
abbrev Booted (s : State) : Prop :=
  s.wvalid = true ∧ s.uninitMark = none ∧ s.input.all HostEvent.isCommand = true

/-- What a state records is possible (60_exceptions.md R151): the fault mark names a command that reads
`WORD`, and an ILLEGAL response carries `res = 0x0000`. -/
abbrev RecordsLegal (s : State) : Prop :=
  (s.uninitMark.all fun op => decide (op.toNat ∈ [2, 3, 4, 5, 6, 7, 8, 9, 10, 11, 12])) = true ∧
  (s.response.all fun r => decide (r.status = .illegal → r.res = 0x0000#16)) = true

/-- Two states that differ at most in a word no command may yet read. -/
abbrev AgreeButUnloadedWord (s t : State) : Prop :=
  s.wvalid = t.wvalid ∧ s.uninitMark = t.uninitMark ∧ s.response = t.response ∧ s.input = t.input ∧
  s.draws = t.draws ∧ (s.wvalid = true → s.word = t.word)

end Sys2Proof.Machine
end

