-- ==== Sys2Proof/Certificates/Slice0/Obligations.lean ====
section
/-! DEFINITION. The statements for the provers, from the numbered rules of spec/. -/

namespace Sys2Proof.Certificates

open Sys2Proof.Machine

/-- 30_encoding.md R64: `cmd[15:4] == 0` and `cmd[3:0] <= 0xD`. -/
abbrev Legal (c : Cmd) : Prop := c.extractLsb' 4 12 = 0#12 ∧ (c.extractLsb' 0 4).toNat ≤ 0xD

/-- R61: the bits of a command word that its opcode ignores. -/
def ignoredBits (op : OpCode) : Cmd :=
  match op.toNat with
  | 0x1 => 0x00000000#32
  | 0x3 => 0xFFE00000#32
  | 0x5 => 0xFFE00000#32
  | 0x7 => 0xFFE00000#32
  | 0x9 => 0xFFE00000#32
  | 0xD => 0xE0E00000#32
  | _ => 0xFFFF0000#32

/-- 40_edge_accessors.md R90: the word bits a setter keeps. -/
def keptBits : Side → Word
  | .top => 0xFFE0#16
  | .right => 0xFE0F#16
  | .bottom => 0xE0FF#16
  | .left => 0x0FFE#16

/-- 10_state.md R25: the word bits a command may write. -/
def mayWrite : Instr → Nat → Bool
  | .nop, _ => false
  | .load _, _ => true
  | .getTop, _ => false
  | .setTop _, j => decide (j ≤ 4)
  | .getRight, _ => false
  | .setRight _, j => decide (4 ≤ j ∧ j ≤ 8)
  | .getBottom, _ => false
  | .setBottom _, j => decide (8 ≤ j ∧ j ≤ 12)
  | .getLeft, _ => false
  | .setLeft _, j => decide (12 ≤ j ∨ j = 0)
  | .rotateCw, _ => true
  | .flipV, _ => true
  | .readWord, _ => false
  | .edgesFit _ _, _ => false

/-- The command completes from `s` with status OK and result `r`. -/
def Answers (i : Instr) (s : State) (r : Word) : Prop :=
  ∃ t, exec i s = .next t ∧ t.response = some ⟨r, .ok⟩

/-- The commands complete from `s`, the last with status OK and result `r`. -/
def SeqAnswers (is : List Instr) (s : State) (r : Word) : Prop :=
  ∃ t, execSeq is s = .next t ∧ t.response = some ⟨r, .ok⟩

/-- The commands complete from `s` and leave the word `w`. -/
def SeqLeaves (is : List Instr) (s : State) (w : Word) : Prop :=
  ∃ t, execSeq is s = .next t ∧ t.word = w

/-- EDGES_FIT answers 1 for `a` and `b`, in every state. -/
def Fit (a b : Edge) : Prop := ∀ s, Answers (.edgesFit a b) s 0x0001#16

end Sys2Proof.Certificates

open Sys2Proof Sys2Proof.Machine Sys2Proof.Certificates

/-- R70: Each line of the table of R70, as text, assembles to the command word beside it, each word decodes to
its command, and the operand 0xFFFF of SET_LEFT is v = 0x1F. -/
def Obligations.SampleLinesAssembleToTheirWords : Prop :=
  (assembleText "NOP" = some [0x00000000#32] ∧ decode 0x00000000#32 = .accept .nop) ∧
  (assembleText "LOAD #0x8421" = some [0x84210001#32] ∧ decode 0x84210001#32 = .accept (.load 0x8421#16)) ∧
  (assembleText "GET_TOP" = some [0x00000002#32] ∧ decode 0x00000002#32 = .accept .getTop) ∧
  (assembleText "SET_TOP #0x15" = some [0x00150003#32] ∧ decode 0x00150003#32 = .accept (.setTop 0x15#16)) ∧
  (assembleText "SET_RIGHT #0x1F" = some [0x001F0005#32] ∧ decode 0x001F0005#32 = .accept (.setRight 0x1F#16)) ∧
  (assembleText "SET_BOTTOM #0x04" = some [0x00040007#32] ∧ decode 0x00040007#32 = .accept (.setBottom 0x04#16)) ∧
  (assembleText "SET_LEFT #0x18" = some [0x00180009#32] ∧ decode 0x00180009#32 = .accept (.setLeft 0x18#16)) ∧
  (assembleText "SET_LEFT #0xFFFF" = some [0xFFFF0009#32] ∧ decode 0xFFFF0009#32 = .accept (.setLeft 0xFFFF#16) ∧
    edgeOperand 0xFFFF#16 = 0x1F#5) ∧
  (assembleText "ROTATE_CW" = some [0x0000000A#32] ∧ decode 0x0000000A#32 = .accept .rotateCw) ∧
  (assembleText "FLIP_V" = some [0x0000000B#32] ∧ decode 0x0000000B#32 = .accept .flipV) ∧
  (assembleText "READ_WORD" = some [0x0000000C#32] ∧ decode 0x0000000C#32 = .accept .readWord) ∧
  (assembleText "EDGES_FIT #0b00000, #0b11111" = some [0x1F00000D#32] ∧
    decode 0x1F00000D#32 = .accept (.edgesFit 0b00000#5 0b11111#5)) ∧
  (assembleText "EDGES_FIT #0b10101, #0b10101" = some [0x1515000D#32] ∧
    decode 0x1515000D#32 = .accept (.edgesFit 0b10101#5 0b10101#5))

/-- R60, R61, R63, R64: For every command and every value of its operands, the decoder reads back from the
encoder's word exactly that command. Conversely, a word the decoder accepts agrees with the encoding of what
it decodes to on every bit that R61 does not let that opcode ignore. -/
def Obligations.DecodeInvertsEncode : Prop :=
  (∀ i : Instr, decode (encode i) = .accept i) ∧
  (∀ (c : Cmd) (i : Instr), decode c = .accept i →
    (c ^^^ encode i) &&& ~~~(ignoredBits (c.extractLsb' 0 4)) = 0#32)

/-- R64: A command word decodes to a command exactly when cmd[15:4] = 0 and cmd[3:0] <= 0xD. The command is the
one whose opcode is cmd[3:0], and its row is the only one with (cmd & 0x0000FFFF) == match. Every other
word, given to the block, is answered ILLEGAL with no other change. -/
def Obligations.DecoderAcceptsExactlyTheLegalWords : Prop :=
  (∀ c : Cmd, (∃ i, decode c = .accept i) ↔ Legal c) ∧
  (∀ (c : Cmd) (i : Instr), decode c = .accept i →
    opcodeOf i = c.extractLsb' 0 4 ∧
    ∀ op : OpCode, c &&& 0x0000FFFF#32 = op.zeroExtend 32 ↔ op = opcodeOf i) ∧
  (∀ (c : Cmd) (s : State) (rest : List HostEvent), ¬ Legal c → s.input = .command c :: rest →
    step s = .next { s with input := rest, response := some ⟨0x0000#16, .illegal⟩ })

/-- 30_encoding.md R60, 30_encoding.md R61, 30_encoding.md R63, 30_encoding.md R66: For every word with RSV =
cmd[15:4] zero, OP = cmd[3:0] selects the command of the opcode map. Its operands are taken from DATA: w =
cmd[31:16] for LOAD, DATA whole for a setter, with v = cmd[20:16] as the edge value it takes (that the decoded
command holds DATA whole is the model's choice, log entry 16), a = cmd[20:16] and b = cmd[28:24] for EDGES_FIT.
Opcodes 0xE and 0xF are rejected by name, and so is every word with RSV not zero. That a word illegal for both
reasons is rejected under the name of the reserved field is the model's choice (log entry 18). -/
def Obligations.OpcodeMapSelectsTheCommand : Prop :=
  ∀ c : Cmd,
    (c.extractLsb' 4 12 ≠ 0#12 → decode c = .reject .reservedField) ∧
    (c.extractLsb' 4 12 = 0#12 →
      (c.extractLsb' 0 4 = 0x0#4 → decode c = .accept .nop) ∧
      (c.extractLsb' 0 4 = 0x1#4 → decode c = .accept (.load (c.extractLsb' 16 16))) ∧
      (c.extractLsb' 0 4 = 0x2#4 → decode c = .accept .getTop) ∧
      (c.extractLsb' 0 4 = 0x3#4 → decode c = .accept (.setTop (c.extractLsb' 16 16))) ∧
      (c.extractLsb' 0 4 = 0x4#4 → decode c = .accept .getRight) ∧
      (c.extractLsb' 0 4 = 0x5#4 → decode c = .accept (.setRight (c.extractLsb' 16 16))) ∧
      (c.extractLsb' 0 4 = 0x6#4 → decode c = .accept .getBottom) ∧
      (c.extractLsb' 0 4 = 0x7#4 → decode c = .accept (.setBottom (c.extractLsb' 16 16))) ∧
      (c.extractLsb' 0 4 = 0x8#4 → decode c = .accept .getLeft) ∧
      (c.extractLsb' 0 4 = 0x9#4 → decode c = .accept (.setLeft (c.extractLsb' 16 16))) ∧
      (c.extractLsb' 0 4 = 0xA#4 → decode c = .accept .rotateCw) ∧
      (c.extractLsb' 0 4 = 0xB#4 → decode c = .accept .flipV) ∧
      (c.extractLsb' 0 4 = 0xC#4 → decode c = .accept .readWord) ∧
      (c.extractLsb' 0 4 = 0xD#4 → decode c = .accept (.edgesFit (c.extractLsb' 16 5) (c.extractLsb' 24 5))) ∧
      (c.extractLsb' 0 4 = 0xE#4 → decode c = .reject .reservedOpcode) ∧
      (c.extractLsb' 0 4 = 0xF#4 → decode c = .reject .reservedOpcode)) ∧
    edgeOperand (c.extractLsb' 16 16) = c.extractLsb' 16 5

/-- R65: Take two command words that differ only in bits the opcode ignores. If one is legal, so is the other,
and from every state a step that takes the one gives exactly what a step that takes the other gives. -/
def Obligations.IgnoredDataBitsNeverMatter : Prop :=
  ∀ (c c' : Cmd), Legal c → (c ^^^ c') &&& ~~~(ignoredBits (c.extractLsb' 0 4)) = 0#32 →
    Legal c' ∧
    ∀ (s s' : State) (rest : List HostEvent), s.input = .command c :: rest →
      s' = { s with input := .command c' :: rest } → step s = step s'

/-- R141, R155: From every state, loaded or not, a step that takes a word with OP 0xE or 0xF or RSV not zero
gives res = 0x0000 and status ILLEGAL and leaves WORD, WVALID and everything else as it was. A following
legal command then runs as it would have without it. -/
def Obligations.IllegalCommandOnlyReports : Prop :=
  ∀ (s : State) (c : Cmd) (rest : List HostEvent), s.input = .command c :: rest →
    (c.extractLsb' 4 12 ≠ 0#12 ∨ c.extractLsb' 0 4 = 0xE#4 ∨ c.extractLsb' 0 4 = 0xF#4) →
    step s = .next { s with input := rest, response := some ⟨0x0000#16, .illegal⟩ } ∧
    (s.uninitMark = none →
      stepStrict s = .next { s with input := rest, response := some ⟨0x0000#16, .illegal⟩ }) ∧
    ∀ (c' : Cmd) (rest' : List HostEvent), rest = .command c' :: rest' → Legal c' →
      step { s with input := rest, response := some ⟨0x0000#16, .illegal⟩ } = step { s with input := rest }

/-- R151, R154: In the strict view of a step, from every state without a fault mark: a word with OP 0xE or 0xF
or RSV not zero reports ILLEGAL whether or not WORD is loaded. A legal NOP, LOAD or EDGES_FIT, or any legal
command while WVALID is true, reports OK. A legal command with opcode 0x2 to 0xC while WVALID is false is
the fault UNINIT with its opcode. The codes of OK and ILLEGAL are 0 and 1. -/
def Obligations.OutcomesAndTheirCauses : Prop :=
  (∀ (s : State) (c : Cmd) (rest : List HostEvent), s.input = .command c :: rest → s.uninitMark = none →
    if c.extractLsb' 4 12 ≠ 0#12 ∨ 0xE ≤ (c.extractLsb' 0 4).toNat then
      stepStrict s = .next { s with input := rest, response := some ⟨0x0000#16, .illegal⟩ }
    else if s.wvalid = true ∨ (c.extractLsb' 0 4).toNat ∈ [0x0, 0x1, 0xD] then
      ∃ t r, stepStrict s = .next t ∧ t.response = some ⟨r, .ok⟩
    else stepStrict s = .fault (.uninit (c.extractLsb' 0 4))) ∧
  statusCode .ok = 0#1 ∧ statusCode .illegal = 1#1

/-- 30_encoding.md R68: Layout N assembles to OP; layout W to (w << 16) + OP for w up to 0xFFFF; layout V to (d
<< 16) + OP for d up to 0xFFFF; layout AB to (b << 24) + (a << 16) + OP for a and b up to 31; and an operand
outside its range is rejected. -/
def Obligations.AssemblerEncodesInRangeAndRejectsTheRest : Prop :=
  (assemble .nop = some [0x0#32] ∧ assemble .getTop = some [0x2#32] ∧ assemble .getRight = some [0x4#32] ∧
    assemble .getBottom = some [0x6#32] ∧ assemble .getLeft = some [0x8#32] ∧
    assemble .rotateCw = some [0xA#32] ∧ assemble .flipV = some [0xB#32] ∧ assemble .readWord = some [0xC#32]) ∧
  (∀ w, assemble (.load w) = if w ≤ 0xFFFF then some [BitVec.ofNat 32 (w * 2 ^ 16 + 0x1)] else none) ∧
  (∀ d, assemble (.setTop d) = if d ≤ 0xFFFF then some [BitVec.ofNat 32 (d * 2 ^ 16 + 0x3)] else none) ∧
  (∀ d, assemble (.setRight d) = if d ≤ 0xFFFF then some [BitVec.ofNat 32 (d * 2 ^ 16 + 0x5)] else none) ∧
  (∀ d, assemble (.setBottom d) = if d ≤ 0xFFFF then some [BitVec.ofNat 32 (d * 2 ^ 16 + 0x7)] else none) ∧
  (∀ d, assemble (.setLeft d) = if d ≤ 0xFFFF then some [BitVec.ofNat 32 (d * 2 ^ 16 + 0x9)] else none) ∧
  (∀ a b, assemble (.edgesFit a b) =
    if a ≤ 31 ∧ b ≤ 31 then some [BitVec.ofNat 32 (b * 2 ^ 24 + a * 2 ^ 16 + 0xD)] else none)

/-- R69: CLEAR is LOAD #0x0000 and leaves every edge 0. ROTATE_180 is two ROTATE_CW and rotates the word by 8.
ROTATE_CCW is three ROTATE_CW and rotates the word right by 4. Every other line of assembly is one command,
or is rejected. -/
def Obligations.PseudoInstructionsExpand : Prop :=
  (assembleText "CLEAR" = assembleText "LOAD #0x0000" ∧ assembleInstrs .clear = some [.load 0x0000#16] ∧
    assembleText "ROTATE_180" = some [0x0000000A#32, 0x0000000A#32] ∧
    assembleInstrs .rotate180 = some [.rotateCw, .rotateCw] ∧
    assembleText "ROTATE_CCW" = some [0x0000000A#32, 0x0000000A#32, 0x0000000A#32] ∧
    assembleInstrs .rotateCcw = some [.rotateCw, .rotateCw, .rotateCw]) ∧
  (∀ s x, SeqAnswers [.load 0x0000#16, getSide x] s 0x0000#16) ∧
  (∀ s, s.wvalid = true →
    SeqLeaves [.rotateCw, .rotateCw] s ((s.word <<< 8) ||| (s.word >>> 8)) ∧
    SeqLeaves [.rotateCw, .rotateCw, .rotateCw] s ((s.word >>> 4) ||| (s.word <<< 12))) ∧
  (∀ l is, assembleInstrs l = some is → is.length ≠ 1 → l = .rotate180 ∨ l = .rotateCcw)

/-- R48, R64: When the next event is a command word that decodes to command i, the step is exec of i at the
state with that event taken from the input. The input list is the model's own (log entry 3). -/
def Obligations.StepRunsTheDecodedCommand : Prop :=
  ∀ (s : State) (c : Cmd) (rest : List HostEvent) (i : Instr), s.input = .command c :: rest →
    decode c = .accept i → step s = exec i { s with input := rest }

/-- R26, R64: If the decoder reads command i from a table word, then a step from the state with that word issued
next (withFetchWord, the model's own way of issuing it, log entry 9) is exec of i at the state as it was. -/
def Obligations.TableWordIsTheNextCommand : Prop :=
  ∀ (s : State) (nbits w : Nat) (i : Instr), decodeTableWord nbits w = some i →
    step (s.withFetchWord nbits w) = exec i s

/-- R46, R162: With nothing given by the outside world a step changes nothing but that the last response has
been taken. That waiting is a step is the model's choice (log entry 5). -/
def Obligations.NoEventLeavesTheBlockWaiting : Prop :=
  ∀ s : State, s.input = [] → step s = .next { s with response := none }

/-- R150: NOP, LOAD and EDGES_FIT in every state, and every other command while WVALID is true, complete with
status OK for every operand value; in the strict view too, when no fault mark is set. -/
def Obligations.LegalCommandsCompleteWithOk : Prop :=
  ∀ (i : Instr) (s : State), (s.wvalid = true ∨ opcodeOf i = 0x0#4 ∨ opcodeOf i = 0x1#4 ∨ opcodeOf i = 0xD#4) →
    ∃ t r, exec i s = .next t ∧ t.response = some ⟨r, .ok⟩ ∧ (s.uninitMark = none → execStrict i s = .next t)

/-- 60_exceptions.md R150, 60_exceptions.md R152, 20_memory.md R47: From every state, reached or not, a step and
every command answer a next state. For a command that reads an unloaded word this is what R152 says the
hardware does; that the model goes on too is its choice (log entry 2). -/
def Obligations.StepAlwaysCompletes : Prop :=
  (∀ s : State, ∃ t, step s = .next t) ∧ (∀ (i : Instr) (s : State), ∃ t, exec i s = .next t)

/-- R80: Every word with cmd[15:0] = 0x0001 decodes to LOAD with w = DATA. From every state LOAD sets WORD to w
and WVALID to true, returns the new WORD with status OK, and changes nothing else; with no fault mark it is
no fault in the strict view. Then w = 0x0000 makes every edge 0 and w = 0xFFFF makes every edge 0x1F. -/
def Obligations.LoadConstructsTheTile : Prop :=
  (∀ c : Cmd, c.extractLsb' 0 16 = 0x0001#16 → decode c = .accept (.load (c.extractLsb' 16 16))) ∧
  (∀ (w : Word) (s : State),
    exec (.load w) s = .next { s with word := w, wvalid := true, response := some ⟨w, .ok⟩ }) ∧
  (∀ (w : Word) (s : State), s.uninitMark = none →
    execStrict (.load w) s = .next { s with word := w, wvalid := true, response := some ⟨w, .ok⟩ }) ∧
  (∀ (s : State) (x : Side), SeqAnswers [.load 0x0000#16, getSide x] s 0x0000#16 ∧
    SeqAnswers [.load 0xFFFF#16, getSide x] s 0x001F#16)

/-- R81: Every word with cmd[15:0] = 0x0002 decodes to GET_TOP. While WVALID is true it completes with the Top
edge, zero-extended, as res and status OK, and leaves all state as it was. While WVALID is false it is the
fault UNINIT in the strict view. -/
def Obligations.GetTopReturnsTheTopEdge : Prop :=
  (∀ c : Cmd, c.extractLsb' 0 16 = 0x0002#16 → decode c = .accept .getTop) ∧
  (∀ s : State, s.wvalid = true →
    exec .getTop s = .next { s with response := some ⟨s.word &&& 0x001F#16, .ok⟩ }) ∧
  (∀ s : State, s.wvalid = false → s.uninitMark = none → execStrict .getTop s = .fault (.uninit 0x2#4))

/-- R82: Every word with cmd[15:0] = 0x0003 decodes to SET_TOP with DATA as its operand. While WVALID is true it
replaces the bits of the Top edge by the low five bits of the operand, returns the new WORD with status OK,
and changes nothing else. While WVALID is false it is the fault UNINIT in the strict view. -/
def Obligations.SetTopWritesTheTopEdge : Prop :=
  (∀ c : Cmd, c.extractLsb' 0 16 = 0x0003#16 → decode c = .accept (.setTop (c.extractLsb' 16 16))) ∧
  (∀ (d : Word) (s : State), s.wvalid = true →
    exec (.setTop d) s = .next { s with
      word := (s.word &&& 0xFFE0#16) ||| (d &&& 0x001F#16)
      response := some ⟨(s.word &&& 0xFFE0#16) ||| (d &&& 0x001F#16), .ok⟩ }) ∧
  (∀ (d : Word) (s : State), s.wvalid = false → s.uninitMark = none →
    execStrict (.setTop d) s = .fault (.uninit 0x3#4))

/-- R83: Every word with cmd[15:0] = 0x0004 decodes to GET_RIGHT. While WVALID is true it completes with the
Right edge, zero-extended, as res and status OK, and leaves all state as it was. While WVALID is false it is
the fault UNINIT in the strict view. -/
def Obligations.GetRightReturnsTheRightEdge : Prop :=
  (∀ c : Cmd, c.extractLsb' 0 16 = 0x0004#16 → decode c = .accept .getRight) ∧
  (∀ s : State, s.wvalid = true →
    exec .getRight s = .next { s with response := some ⟨(s.word >>> 4) &&& 0x001F#16, .ok⟩ }) ∧
  (∀ s : State, s.wvalid = false → s.uninitMark = none → execStrict .getRight s = .fault (.uninit 0x4#4))

/-- R84: Every word with cmd[15:0] = 0x0005 decodes to SET_RIGHT with DATA as its operand. While WVALID is true
it replaces the bits of the Right edge by the low five bits of the operand, returns the new WORD with status
OK, and changes nothing else. While WVALID is false it is the fault UNINIT in the strict view. -/
def Obligations.SetRightWritesTheRightEdge : Prop :=
  (∀ c : Cmd, c.extractLsb' 0 16 = 0x0005#16 → decode c = .accept (.setRight (c.extractLsb' 16 16))) ∧
  (∀ (d : Word) (s : State), s.wvalid = true →
    exec (.setRight d) s = .next { s with
      word := (s.word &&& 0xFE0F#16) ||| ((d &&& 0x001F#16) <<< 4)
      response := some ⟨(s.word &&& 0xFE0F#16) ||| ((d &&& 0x001F#16) <<< 4), .ok⟩ }) ∧
  (∀ (d : Word) (s : State), s.wvalid = false → s.uninitMark = none →
    execStrict (.setRight d) s = .fault (.uninit 0x5#4))

/-- R85: Every word with cmd[15:0] = 0x0006 decodes to GET_BOTTOM. While WVALID is true it completes with the
Bottom edge, zero-extended, as res and status OK, and leaves all state as it was. While WVALID is false it
is the fault UNINIT in the strict view. -/
def Obligations.GetBottomReturnsTheBottomEdge : Prop :=
  (∀ c : Cmd, c.extractLsb' 0 16 = 0x0006#16 → decode c = .accept .getBottom) ∧
  (∀ s : State, s.wvalid = true →
    exec .getBottom s = .next { s with response := some ⟨(s.word >>> 8) &&& 0x001F#16, .ok⟩ }) ∧
  (∀ s : State, s.wvalid = false → s.uninitMark = none → execStrict .getBottom s = .fault (.uninit 0x6#4))

/-- R86: Every word with cmd[15:0] = 0x0007 decodes to SET_BOTTOM with DATA as its operand. While WVALID is true
it replaces the bits of the Bottom edge by the low five bits of the operand, returns the new WORD with
status OK, and changes nothing else. While WVALID is false it is the fault UNINIT in the strict view. -/
def Obligations.SetBottomWritesTheBottomEdge : Prop :=
  (∀ c : Cmd, c.extractLsb' 0 16 = 0x0007#16 → decode c = .accept (.setBottom (c.extractLsb' 16 16))) ∧
  (∀ (d : Word) (s : State), s.wvalid = true →
    exec (.setBottom d) s = .next { s with
      word := (s.word &&& 0xE0FF#16) ||| ((d &&& 0x001F#16) <<< 8)
      response := some ⟨(s.word &&& 0xE0FF#16) ||| ((d &&& 0x001F#16) <<< 8), .ok⟩ }) ∧
  (∀ (d : Word) (s : State), s.wvalid = false → s.uninitMark = none →
    execStrict (.setBottom d) s = .fault (.uninit 0x7#4))

/-- R87: Every word with cmd[15:0] = 0x0008 decodes to GET_LEFT. While WVALID is true it completes with the Left
edge, zero-extended, as res and status OK, and leaves all state as it was. While WVALID is false it is the
fault UNINIT in the strict view. -/
def Obligations.GetLeftReturnsTheLeftEdge : Prop :=
  (∀ c : Cmd, c.extractLsb' 0 16 = 0x0008#16 → decode c = .accept .getLeft) ∧
  (∀ s : State, s.wvalid = true →
    exec .getLeft s = .next { s with response := some ⟨((s.word &&& 0x0001#16) <<< 4) ||| ((s.word >>> 12) &&& 0x000F#16), .ok⟩ }) ∧
  (∀ s : State, s.wvalid = false → s.uninitMark = none → execStrict .getLeft s = .fault (.uninit 0x8#4))

/-- R88: Every word with cmd[15:0] = 0x0009 decodes to SET_LEFT with DATA as its operand. While WVALID is true
it replaces the bits of the Left edge by the low five bits of the operand, returns the new WORD with status
OK, and changes nothing else. While WVALID is false it is the fault UNINIT in the strict view. -/
def Obligations.SetLeftWritesTheLeftEdge : Prop :=
  (∀ c : Cmd, c.extractLsb' 0 16 = 0x0009#16 → decode c = .accept (.setLeft (c.extractLsb' 16 16))) ∧
  (∀ (d : Word) (s : State), s.wvalid = true →
    exec (.setLeft d) s = .next { s with
      word := (s.word &&& 0x0FFE#16) ||| ((d &&& 0x000F#16) <<< 12) ||| ((d >>> 4) &&& 0x0001#16)
      response := some ⟨(s.word &&& 0x0FFE#16) ||| ((d &&& 0x000F#16) <<< 12) ||| ((d >>> 4) &&& 0x0001#16), .ok⟩ }) ∧
  (∀ (d : Word) (s : State), s.wvalid = false → s.uninitMark = none →
    execStrict (.setLeft d) s = .fault (.uninit 0x9#4))

/-- R110: Every word with cmd[15:0] = 0x000A decodes to ROTATE_CW. While WVALID is true it replaces WORD by
(WORD << 4) | (WORD >> 12), returns the new WORD with status OK, and changes nothing else. While WVALID is
false it is the fault UNINIT in the strict view. -/
def Obligations.RotateCwRotatesLeftByFour : Prop :=
  (∀ c : Cmd, c.extractLsb' 0 16 = 0x000A#16 → decode c = .accept .rotateCw) ∧
  (∀ s : State, s.wvalid = true →
    exec .rotateCw s = .next { s with
      word := (s.word <<< 4) ||| (s.word >>> 12)
      response := some ⟨(s.word <<< 4) ||| (s.word >>> 12), .ok⟩ }) ∧
  (∀ s : State, s.wvalid = false → s.uninitMark = none → execStrict .rotateCw s = .fault (.uninit 0xA#4))

/-- R113: Every word with cmd[15:0] = 0x000B decodes to FLIP_V. While WVALID is true, with r the word whose bit
i is bit 15 - i of WORD, it replaces WORD by (r >> 5) | (r << 11), returns the new WORD with status OK, and
changes nothing else. While WVALID is false it is the fault UNINIT in the strict view. 0x0000, 0xFFFF,
0x0020 and 0x2000 are fixed points and 0x69A6 becomes 0xB32C. -/
def Obligations.FlipVReversesThenRotatesRightByFive : Prop :=
  (∀ c : Cmd, c.extractLsb' 0 16 = 0x000B#16 → decode c = .accept .flipV) ∧
  (∀ (s : State) (r : Word), s.wvalid = true → (∀ i, i < 16 → r.getLsbD i = s.word.getLsbD (15 - i)) →
    exec .flipV s = .next { s with
      word := (r >>> 5) ||| (r <<< 11)
      response := some ⟨(r >>> 5) ||| (r <<< 11), .ok⟩ }) ∧
  (∀ s : State, s.wvalid = false → s.uninitMark = none → execStrict .flipV s = .fault (.uninit 0xB#4)) ∧
  (∀ s : State, s.wvalid = true →
    (s.word ∈ [0x0000#16, 0xFFFF#16, 0x0020#16, 0x2000#16] → SeqLeaves [.flipV] s s.word) ∧
    (s.word = 0x69A6#16 → SeqLeaves [.flipV] s 0xB32C#16))

/-- R116: Every word with cmd[15:0] = 0x000C decodes to READ_WORD. While WVALID is true it completes with WORD
as res and status OK and leaves all state as it was. While WVALID is false it is the fault UNINIT in the
strict view. -/
def Obligations.ReadWordReturnsTheWord : Prop :=
  (∀ c : Cmd, c.extractLsb' 0 16 = 0x000C#16 → decode c = .accept .readWord) ∧
  (∀ s : State, s.wvalid = true → exec .readWord s = .next { s with response := some ⟨s.word, .ok⟩ }) ∧
  (∀ s : State, s.wvalid = false → s.uninitMark = none → execStrict .readWord s = .fault (.uninit 0xC#4))

/-- R130: Every word with cmd[15:0] = 0x000D decodes to EDGES_FIT with a = DATA[4:0] and b = DATA[12:8]. From
every state, loaded or not, it completes with res 1 if a XOR b = 0b11111 and 0 otherwise, status OK, and
leaves all state as it was; with no fault mark it is no fault in the strict view. -/
def Obligations.EdgesFitTestsComplements : Prop :=
  (∀ c : Cmd, c.extractLsb' 0 16 = 0x000D#16 →
    decode c = .accept (.edgesFit (c.extractLsb' 16 5) (c.extractLsb' 24 5))) ∧
  (∀ (a b : Edge) (s : State),
    exec (.edgesFit a b) s = .next { s with
      response := some ⟨if a ^^^ b = 0b11111#5 then 0x0001#16 else 0x0000#16, .ok⟩ }) ∧
  (∀ (a b : Edge) (s : State), s.uninitMark = none → execStrict (.edgesFit a b) s = exec (.edgesFit a b) s)

/-- R140: Every word with cmd[15:0] = 0x0000 decodes to NOP. From every state, loaded or not, it completes with
res 0x0000 and status OK and leaves all state as it was; with no fault mark it is no fault in the strict
view. -/
def Obligations.NopDoesNothing : Prop :=
  (∀ c : Cmd, c.extractLsb' 0 16 = 0x0000#16 → decode c = .accept .nop) ∧
  (∀ s : State, exec .nop s = .next { s with response := some ⟨0x0000#16, .ok⟩ }) ∧
  (∀ s : State, s.uninitMark = none → execStrict .nop s = exec .nop s)

/-- R21, R22, R23: Bit i of what a getter returns is the word bit that R23 gives for bit i of its edge, and the
bits above bit 4 are 0. The word bits of Top are 0 to 4, of Right 4 to 8, of Bottom 8 to 12, of Left 12 to
15 and then 0. Word bits 0, 4, 8 and 12 belong to two edges and every other word bit to exactly one. -/
def Obligations.EdgeBitsSitAtTheirWordBits : Prop :=
  (∀ (x : Side) (s : State), s.wvalid = true →
    ∃ r, Answers (getSide x) s r ∧
      (∀ i, i < 5 → r.getLsbD i = s.word.getLsbD (wordBit x i)) ∧ (∀ i, 5 ≤ i → r.getLsbD i = false)) ∧
  (List.range 5).map (wordBit .top) = [0, 1, 2, 3, 4] ∧
  (List.range 5).map (wordBit .right) = [4, 5, 6, 7, 8] ∧
  (List.range 5).map (wordBit .bottom) = [8, 9, 10, 11, 12] ∧
  (List.range 5).map (wordBit .left) = [12, 13, 14, 15, 0] ∧
  (∀ j, j < 16 → ([Side.top, .right, .bottom, .left].filter fun x => inSpan x j).length =
    if j ∈ [0, 4, 8, 12] then 2 else 1)

/-- R24: While WVALID is true every getter returns a value of at most 31. Every setter leaves each word bit
outside its own edge as it was and puts bit i of its operand in the word bit of bit i of its edge. The
shared bit it writes is the one the neighbouring edge then reads. -/
def Obligations.SettersWriteOnlyTheirSpan : Prop :=
  ∀ (x : Side) (d : Word) (s : State), s.wvalid = true →
    (∃ r, Answers (getSide x) s r ∧ r.toNat ≤ 31) ∧
    (∃ t, exec (setSide x d) s = .next t ∧
      (∀ j, j < 16 → inSpan x j = false → t.word.getLsbD j = s.word.getLsbD j) ∧
      (∀ i, i < 5 → t.word.getLsbD (wordBit x i) = d.getLsbD i)) ∧
    (∃ r, SeqAnswers [setSide x d, getSide (clockwise x)] s r ∧ r.getLsbD 0 = d.getLsbD 4) ∧
    (∃ r, SeqAnswers [setSide (clockwise x) d, getSide x] s r ∧ r.getLsbD 4 = d.getLsbD 0)

/-- 10_state.md R34: If the four getters answer the same in two loaded states, the two words are equal. Four
edge values are the answers of the four getters in some loaded state exactly when Top[4] = Right[0],
Right[4] = Bottom[0], Bottom[4] = Left[0] and Left[4] = Top[0]. -/
def Obligations.FourEdgesDetermineTheWord : Prop :=
  (∀ s s' : State, s.wvalid = true → s'.wvalid = true →
    (∀ x, ∃ r, Answers (getSide x) s r ∧ Answers (getSide x) s' r) → s.word = s'.word) ∧
  (∀ t r b l : Edge,
    (∃ s : State, s.wvalid = true ∧ Answers .getTop s (t.zeroExtend 16) ∧ Answers .getRight s (r.zeroExtend 16) ∧
      Answers .getBottom s (b.zeroExtend 16) ∧ Answers .getLeft s (l.zeroExtend 16)) ↔
    (t.getLsbD 4 = r.getLsbD 0 ∧ r.getLsbD 4 = b.getLsbD 0 ∧ b.getLsbD 4 = l.getLsbD 0 ∧
      l.getLsbD 4 = t.getLsbD 0))

/-- R25: When a command completes, from any state, each word bit that R25 does not let it write is as it was;
WVALID changes for LOAD only; the fault mark changes only for a command that reads WORD; the events to come
and the free values drawn are as they were. For NOP, LOAD and EDGES_FIT the outcome does not depend on the
word. An illegal word changes nothing but the response. -/
def Obligations.CommandsTouchOnlyWhatTheyMay : Prop :=
  (∀ (i : Instr) (s t : State), exec i s = .next t →
    (∀ j, j < 16 → mayWrite i j = false → t.word.getLsbD j = s.word.getLsbD j) ∧
    (opcodeOf i ≠ 0x1#4 → t.wvalid = s.wvalid) ∧
    (opcodeOf i ∈ [0x0#4, 0x1#4, 0xD#4] → t.uninitMark = s.uninitMark) ∧
    t.input = s.input ∧ t.draws = s.draws) ∧
  (∀ (s : State) (w v : Word), ∃ t, exec (.load w) s = .next t ∧ exec (.load w) { s with word := v } = .next t) ∧
  (∀ (s : State) (v : Word), ∃ t, exec .nop s = .next t ∧
    exec .nop { s with word := v } = .next { t with word := v }) ∧
  (∀ (s : State) (a b : Edge) (v : Word), ∃ t, exec (.edgesFit a b) s = .next t ∧
    exec (.edgesFit a b) { s with word := v } = .next { t with word := v }) ∧
  (∀ (c : Cmd) (s : State), ¬ Legal c → ∃ t, runCommand c s = .next t ∧ t = { s with response := t.response })

/-- R44: While WVALID is true the getters and READ_WORD, and in every state EDGES_FIT and NOP, change nothing
but the response, and repeating one gives the same response again. A step of one instance leaves every other
instance as it was. -/
def Obligations.ReadingCommandsArePure : Prop :=
  (∀ (i : Instr) (s : State),
    ((opcodeOf i ∈ [0x2#4, 0x4#4, 0x6#4, 0x8#4, 0xC#4] ∧ s.wvalid = true) ∨ opcodeOf i ∈ [0x0#4, 0xD#4]) →
    ∃ t, exec i s = .next t ∧ t = { s with response := t.response } ∧ exec i t = .next t) ∧
  (∀ (p q : Platform) (k k' : Nat), p.stepAt k = .next q → k ≠ k' → q.tiles[k']? = p.tiles[k']?)

/-- R45: LOAD w twice leaves the same state as once; so does each setter with one operand. ROTATE_CW four times
and FLIP_V twice restore the word, neither is idempotent, and 0x0000 and 0xFFFF are fixed points of both. -/
def Obligations.RepeatedCommandsAndFixedPoints : Prop :=
  (∀ (w : Word) (s : State), ∃ t, exec (.load w) s = .next t ∧ exec (.load w) t = .next t) ∧
  (∀ (x : Side) (d : Word) (s : State), s.wvalid = true →
    ∃ t, exec (setSide x d) s = .next t ∧ exec (setSide x d) t = .next t) ∧
  (∀ s : State, s.wvalid = true →
    SeqLeaves [.rotateCw, .rotateCw, .rotateCw, .rotateCw] s s.word ∧ SeqLeaves [.flipV, .flipV] s s.word) ∧
  (∀ i, i ∈ [Instr.rotateCw, Instr.flipV] →
    (∃ (s : State) (w v : Word), s.wvalid = true ∧ SeqLeaves [i] s w ∧ SeqLeaves [i, i] s v ∧ w ≠ v) ∧
    (∀ s : State, s.wvalid = true → s.word = 0x0000#16 ∨ s.word = 0xFFFF#16 → SeqLeaves [i] s s.word))

/-- R89: After setters of two different edges, every bit of the later one's span holds its operand's bit, every
bit of the earlier one's span outside the later one's holds the earlier operand's bit, and every other word
bit is as it was. Opposite edges have disjoint spans and the two orders give the same word. Adjacent edges
share exactly one word bit, bit 4 of the one and bit 0 of the clockwise next, and the two orders give the
same word exactly when the operands agree on it. -/
def Obligations.LaterSetterDecidesTheSharedBit : Prop :=
  (∀ (x y : Side) (v u : Word) (s : State), x ≠ y → s.wvalid = true →
    ∃ t, execSeq [setSide x v, setSide y u] s = .next t ∧
      (∀ i, i < 5 → t.word.getLsbD (wordBit y i) = u.getLsbD i) ∧
      (∀ i, i < 5 → inSpan y (wordBit x i) = false → t.word.getLsbD (wordBit x i) = v.getLsbD i) ∧
      (∀ j, j < 16 → inSpan x j = false → inSpan y j = false → t.word.getLsbD j = s.word.getLsbD j)) ∧
  (∀ (x : Side) (v u : Word) (s : State), s.wvalid = true →
    ∃ w, SeqLeaves [setSide x v, setSide (clockwise (clockwise x)) u] s w ∧
      SeqLeaves [setSide (clockwise (clockwise x)) u, setSide x v] s w) ∧
  (∀ (x : Side) (j : Nat), j < 16 →
    ¬ (inSpan x j = true ∧ inSpan (clockwise (clockwise x)) j = true) ∧
    ((inSpan x j = true ∧ inSpan (clockwise x) j = true) ↔ (j = wordBit x 4 ∧ j = wordBit (clockwise x) 0))) ∧
  wordBit .top 4 = 4 ∧ wordBit .right 4 = 8 ∧ wordBit .bottom 4 = 12 ∧ wordBit .left 4 = 0 ∧
  (∀ (x : Side) (v u : Word) (s : State), s.wvalid = true →
    ((∃ w, SeqLeaves [setSide x v, setSide (clockwise x) u] s w ∧
        SeqLeaves [setSide (clockwise x) u, setSide x v] s w) ↔ v.getLsbD 4 = u.getLsbD 0))

/-- R174: If the operands of the setters of an edge and of the clockwise next one disagree on the shared bit,
then after both the edge set last reads back the value written, and the edge set first reads back that value
with the shared bit changed. The shared bits are 4, 8, 12 and 0. -/
def Obligations.EarlierEdgeReadsBackDifferently : Prop :=
  (∀ (x : Side) (v u : Word) (s : State), s.wvalid = true → v.getLsbD 4 ≠ u.getLsbD 0 →
    SeqAnswers [setSide x v, setSide (clockwise x) u, getSide (clockwise x)] s (u &&& 0x001F#16) ∧
    SeqAnswers [setSide x v, setSide (clockwise x) u, getSide x] s ((v &&& 0x001F#16) ^^^ 0x0010#16) ∧
    SeqAnswers [setSide (clockwise x) u, setSide x v, getSide x] s (v &&& 0x001F#16) ∧
    SeqAnswers [setSide (clockwise x) u, setSide x v, getSide (clockwise x)] s ((u &&& 0x001F#16) ^^^ 0x0001#16)) ∧
  wordBit .top 4 = 4 ∧ wordBit .right 4 = 8 ∧ wordBit .bottom 4 = 12 ∧ wordBit .left 4 = 0

/-- R175: After a setter, a getter of the clockwise next edge returns that edge's old value with bit 0 replaced
by bit 4 of the operand, and a getter of the edge before it returns the old value with bit 4 replaced by bit
0 of the operand. With WORD = 0x8421, SET_TOP #0x10 makes GET_RIGHT return 0x03. -/
def Obligations.AdjacentEdgeReadsTheWrittenSharedBit : Prop :=
  (∀ (x : Side) (d old : Word) (s : State), s.wvalid = true → Answers (getSide (clockwise x)) s old →
    SeqAnswers [setSide x d, getSide (clockwise x)] s ((old &&& 0xFFFE#16) ||| ((d >>> 4) &&& 0x0001#16))) ∧
  (∀ (x : Side) (d old : Word) (s : State), s.wvalid = true → Answers (getSide x) s old →
    SeqAnswers [setSide (clockwise x) d, getSide x] s ((old &&& 0xFFEF#16) ||| ((d <<< 4) &&& 0x0010#16))) ∧
  (∀ s : State, s.wvalid = true → s.word = 0x8421#16 → SeqAnswers [.setTop 0x0010#16, .getRight] s 0x0003#16)

/-- R90: For every edge, every operand and every loaded word, the setter then the getter returns the low five
bits of the operand, and the word bits outside the edge (masks 0xFFE0, 0xFE0F, 0xE0FF, 0x0FFE) are
unchanged. After SET_LEFT, WORD[0] = v[4] and WORD[15:12] = v[3:0]. -/
def Obligations.SetThenGetRoundTrips : Prop :=
  (∀ (x : Side) (d : Word) (s : State), s.wvalid = true →
    ∃ t, execSeq [setSide x d, getSide x] s = .next t ∧ t.response = some ⟨d &&& 0x001F#16, .ok⟩ ∧
      t.word &&& keptBits x = s.word &&& keptBits x) ∧
  (∀ (d : Word) (s : State), s.wvalid = true →
    ∃ t, execSeq [.setLeft d, .getLeft] s = .next t ∧ t.word.getLsbD 0 = d.getLsbD 4 ∧
      t.word.extractLsb' 12 4 = d.extractLsb' 0 4)

/-- R111: For every loaded word, after ROTATE_CW the getter of the clockwise next edge answers what the getter
of the edge answered before: new Right = old Top, new Bottom = old Right, new Left = old Bottom, new Top =
old Left. 0x8421 becomes 0x4218. -/
def Obligations.RotateMovesEachEdgeClockwise : Prop :=
  (∀ (x : Side) (s : State), s.wvalid = true →
    ∃ r, Answers (getSide x) s r ∧ SeqAnswers [.rotateCw, getSide (clockwise x)] s r) ∧
  (∀ s : State, s.wvalid = true → s.word = 0x8421#16 → SeqLeaves [.rotateCw] s 0x4218#16)

/-- R112: Four ROTATE_CW give the word back, three rotate it right by 4, different words rotate to different
words, and every word is the rotation of some word. -/
def Obligations.RotateIsACycleOfFour : Prop :=
  (∀ s : State, s.wvalid = true →
    SeqLeaves [.rotateCw, .rotateCw, .rotateCw, .rotateCw] s s.word ∧
    SeqLeaves [.rotateCw, .rotateCw, .rotateCw] s ((s.word >>> 4) ||| (s.word <<< 12))) ∧
  (∀ (s s' : State) (w : Word), s.wvalid = true → s'.wvalid = true →
    SeqLeaves [.rotateCw] s w → SeqLeaves [.rotateCw] s' w → s.word = s'.word) ∧
  (∀ w : Word, ∃ s : State, s.wvalid = true ∧ SeqLeaves [.rotateCw] s w)

/-- R114: For every loaded word and every j below 16, bit j of the word after FLIP_V is bit (10 - j) mod 16 of
the word before. 0x001F becomes 0x07C0, which reads Top 0x00, Right 0x1C, Bottom 0x07 and Left 0x00. -/
def Obligations.FlipPermutesTheBits : Prop :=
  (∀ s : State, s.wvalid = true →
    ∃ w, SeqLeaves [.flipV] s w ∧ ∀ j, j < 16 → w.getLsbD j = s.word.getLsbD ((26 - j) % 16)) ∧
  (∀ s : State, s.wvalid = true → s.word = 0x001F#16 →
    SeqLeaves [.flipV] s 0x07C0#16 ∧ SeqAnswers [.flipV, .getTop] s 0x0000#16 ∧
    SeqAnswers [.flipV, .getRight] s 0x001C#16 ∧ SeqAnswers [.flipV, .getBottom] s 0x0007#16 ∧
    SeqAnswers [.flipV, .getLeft] s 0x0000#16)

/-- R115: For every loaded word, two FLIP_V complete and leave the word as it was, and nothing else changes but
the response. -/
def Obligations.FlipTwiceRestoresTheWord : Prop :=
  ∀ s : State, s.wvalid = true →
    execSeq [.flipV, .flipV] s = .next { s with response := some ⟨s.word, .ok⟩ }

/-- R117: While WVALID is true READ_WORD answers a result whose rendering has sixteen characters, the k-th being
1 when bit 15 - k of the word is 1 and 0 otherwise. The words 0, 0xFFFF and 0xAAAA render as the three
strings of R117. -/
def Obligations.DumpRendersTheWord : Prop :=
  (∀ s : State, s.wvalid = true →
    ∃ r, Answers .readWord s r ∧ (render r).length = 16 ∧
      ∀ k, k < 16 → (render r)[k]? = some (if s.word.getLsbD (15 - k) then '1' else '0')) ∧
  render 0x0000#16 = "0000000000000000".toList ∧ render 0xFFFF#16 = "1111111111111111".toList ∧
  render 0xAAAA#16 = "1010101010101010".toList

/-- R131: Writing fit(a, b) for EDGES_FIT answering 1: fit is symmetric; it holds exactly when b = a ^ 0x1F, so
of exactly 32 ordered pairs; fit(a, a) never holds; and fit(a, b) with fit(b, c) gives a = c. -/
def Obligations.FitIsExactComplementarity : Prop :=
  (∀ a b, Fit a b ↔ Fit b a) ∧
  (∀ a b, Fit a b ↔ b = a ^^^ 0x1F#5) ∧
  (∃ l : List (Edge × Edge), l.Nodup ∧ l.length = 32 ∧ ∀ p, p ∈ l ↔ Fit p.1 p.2) ∧
  (∀ a, ¬ Fit a a) ∧
  (∀ a b c, Fit a b → Fit b c → a = c)

/-- 20_memory.md R48, 10_state.md R26: For every list of commands and every state whose host has issued exactly
their encodings, a run of as many steps as there are commands ends exactly as the commands' meanings applied one
after another. Encoding, decoding, delivery and the step together add nothing and lose nothing. That what the
host has issued is a list in the state, taken oldest first, is the model's choice (log entry 3). -/
def Obligations.RunIsTheCommandsInOrder : Prop :=
  ∀ (is : List Instr) (s : State), s.input = is.map (fun i => HostEvent.command (encode i)) →
    runSteps is.length s = execSeq is { s with input := [] }

/-- 20_memory.md R48: The (command, response) pairs of j + k steps are those of the first j steps followed by
those of k steps from the state reached; and each command issued adds exactly one pair. -/
def Obligations.HistoryIsSequential : Prop :=
  (∀ (j k : Nat) (s t : State), runSteps j s = .next t →
    transcript (j + k) s = transcript j s ++ transcript k t) ∧
  (∀ (s : State) (c : Cmd) (rest : List HostEvent), s.input = .command c :: rest →
    ∃ t r, step s = .next t ∧ t.response = some r ∧ transcript 1 s = [(c, r)])

/-- R33: Instance k of a platform, of any number of instances, steps exactly as it would alone; every other
instance is left as it was; and steps of two different instances give the same platform in either order. -/
def Obligations.InstancesAreIndependent : Prop :=
  (∀ (p : Platform) (k : Nat) (o : Owned), p.tiles[k]? = some o →
    ∃ q t, p.stepAt k = .next q ∧ step o.block = .next t ∧ q.tiles.length = p.tiles.length ∧
      q.tiles[k]? = some { o with block := t } ∧ ∀ k', k' ≠ k → q.tiles[k']? = p.tiles[k']?) ∧
  (∀ (p q r : Platform) (i j : Nat), i ≠ j → p.stepAt i = .next q → q.stepAt j = .next r →
    ∃ q', p.stepAt j = .next q' ∧ q'.stepAt i = .next r)

/-- 20_memory.md R49: R49 has a model refuse two uncoordinated hosts. In the model (log entry 11) a command from
a host that does not own the instance is refused, and a command from the owner is appended to what that
instance has been given, with every other instance as it was. -/
def Obligations.OnlyTheOwnerIssuesCommands : Prop :=
  ∀ (p : Platform) (h k : Nat) (c : Cmd) (o : Owned), p.tiles[k]? = some o →
    if o.owner = h then
      ∃ q, p.issue h k c = .next q ∧
        q.tiles[k]? = some { o with block := { o.block with input := o.block.input ++ [.command c] } } ∧
        ∀ k', k' ≠ k → q.tiles[k']? = p.tiles[k']?
    else p.issue h k c = .refused .uncoordinatedHosts

/-- R32: In the reset state WVALID is false and no fault mark is set, and every command that reads WORD is there
the fault UNINIT with its opcode in the strict view. -/
def Obligations.ResetStateHoldsNoValue : Prop :=
  State.reset.wvalid = false ∧ State.reset.uninitMark = none ∧
  ∀ i : Instr, 2 ≤ (opcodeOf i).toNat → (opcodeOf i).toNat ≤ 12 →
    execStrict i State.reset = .fault (.uninit (opcodeOf i))

/-- 70_reset_and_hazards.md R170, 10_state.md R32: A step that takes the reset signal ends with WVALID false and
no fault mark, with the later events still to come, in the strict view too. No command makes WVALID false.
The platform's signal is given to every instance, in the model after the events already given (log entry
10). -/
def Obligations.ResetSignalResets : Prop :=
  (∀ (s : State) (rest : List HostEvent), s.input = .reset :: rest →
    ∃ t, step s = .next t ∧ stepStrict s = .next t ∧ t.wvalid = false ∧ t.uninitMark = none ∧ t.input = rest) ∧
  (∀ (i : Instr) (s : State), s.wvalid = true → ∃ t, exec i s = .next t ∧ t.wvalid = true) ∧
  (∀ (p : Platform) (k : Nat) (o : Owned), p.tiles[k]? = some o →
    p.signalReset.tiles[k]? =
      some { o with block := { o.block with input := o.block.input ++ [.reset] } })

/-- 70_reset_and_hazards.md R171: A step that takes a reset with a command in flight ends with WVALID false and
no fault mark. The response, if there is one, is the one that command gives when it runs alone. Which of the
two happens is a free value of the model (log entry 7). -/
def Obligations.ResetInFlightEndsInTheResetState : Prop :=
  ∀ (s : State) (c : Cmd) (rest : List HostEvent), s.input = .resetDuring c :: rest →
    ∃ t, step s = .next t ∧ t.wvalid = false ∧ t.uninitMark = none ∧ t.input = rest ∧
      (t.response = none ∨
        ∃ u, step { s with input := .command c :: rest } = .next u ∧ t.response = u.response)

/-- R30: WVALID is false after reset. If a step makes it true, the step took a LOAD, and every step that takes a
LOAD makes it true. If a step makes it false, the step took a reset. While it is false a command that reads
WORD is the fault UNINIT in the strict view. -/
def Obligations.WvalidIsSetByLoadAndClearedByReset : Prop :=
  State.reset.wvalid = false ∧
  (∀ s t : State, step s = .next t → s.wvalid = false → t.wvalid = true →
    ∃ c w rest, s.input = .command c :: rest ∧ decode c = .accept (.load w)) ∧
  (∀ (s : State) (c : Cmd) (w : Word) (rest : List HostEvent), s.input = .command c :: rest →
    decode c = .accept (.load w) → ∃ t, step s = .next t ∧ t.wvalid = true) ∧
  (∀ s t : State, step s = .next t → s.wvalid = true → t.wvalid = false →
    ∃ e rest, s.input = e :: rest ∧ e.isCommand = false) ∧
  (∀ (i : Instr) (s : State), s.wvalid = false → s.uninitMark = none →
    2 ≤ (opcodeOf i).toNat → (opcodeOf i).toNat ≤ 12 → execStrict i s = .fault (.uninit (opcodeOf i)))

/-- 60_exceptions.md R152, 60_exceptions.md R151, 60_exceptions.md R154, 70_reset_and_hazards.md R171,
70_reset_and_hazards.md R172: A command that reads WORD while WVALID is false computes with the value held, as
it would on a loaded word, answers status OK, and records the fault mark with its opcode. In the strict view it
is the fault UNINIT with its opcode, and a marked instance is stopped: a step faults when it takes a command and
when it waits (log entry 5), and a reset clears the mark. A reset that arrives while a legal command that reads
WORD is in flight and WVALID is false is the fault UNINIT in the strict view, with the first opcode recorded
(log entry 7); with any other command in flight the step goes on and no mark is left. R152 has a model stop;
that exec goes on and records the mark in the next state while only the strict view stops is the model's choice
(log entry 2). -/
def Obligations.UninitialisedReadIsRecordedAndStops : Prop :=
  (∀ (i : Instr) (s : State), s.wvalid = false → 2 ≤ (opcodeOf i).toNat → (opcodeOf i).toNat ≤ 12 →
    (∃ t t' r, exec i s = .next t ∧ exec i { s with wvalid := true } = .next t' ∧ t.word = t'.word ∧
      t.response = t'.response ∧ t.response = some ⟨r, .ok⟩ ∧
      (s.uninitMark = none → t.uninitMark = some (opcodeOf i))) ∧
    (s.uninitMark = none → execStrict i s = .fault (.uninit (opcodeOf i)))) ∧
  (∀ (s : State) (op : OpCode), s.uninitMark = some op → s.input = [] → stepStrict s = .fault (.uninit op)) ∧
  (∀ (s : State) (op : OpCode) (c : Cmd) (rest : List HostEvent), s.uninitMark = some op →
    s.input = .command c :: rest → stepStrict s = .fault (.uninit op)) ∧
  (∀ (s : State) (rest : List HostEvent), s.input = .reset :: rest →
    ∃ t, stepStrict s = .next t ∧ t.uninitMark = none) ∧
  (∀ (s : State) (c : Cmd) (rest : List HostEvent), s.input = .resetDuring c :: rest →
    if Legal c ∧ 2 ≤ (c.extractLsb' 0 4).toNat ∧ (c.extractLsb' 0 4).toNat ≤ 12 ∧ s.wvalid = false then
      stepStrict s = .fault (.uninit (s.uninitMark.getD (c.extractLsb' 0 4)))
    else ∃ t, stepStrict s = .next t ∧ t.uninitMark = none)

/-- 70_reset_and_hazards.md R172, 70_reset_and_hazards.md R171, 60_exceptions.md R151, 60_exceptions.md R152,
60_exceptions.md R154: Take any state with no fault mark. Every run from it, of whatever length, goes on in the
strict view exactly when the events to come meet the boot requirement of R172: after each reset, and from the
start if WORD is not loaded, a legal LOAD comes before the first legal command that reads WORD. A command that
is in flight when a reset arrives was issued, so it counts too, whether or not it completed (log entry 7). The
strict view is the model's place for the stop of R152 (log entry 2). -/
def Obligations.LoadFirstIsExactlyWhatARunNeeds : Prop :=
  ∀ s : State, s.uninitMark = none →
    ((∀ k, ∃ t, runStrict k s = .next t) ↔ loadFirst s.wvalid s.input = true)

/-- R173: From every state whose word is loaded and that has no fault mark, with any commands to come, legal or
not, in any order, every run of whatever length goes on in the strict view and ends in such a state again.
LOAD from any state leaves the word it names, whatever the word was. -/
def Obligations.LoadedTileStaysUsable : Prop :=
  (∀ s : State, Booted s → ∃ t, stepStrict s = .next t ∧ step s = .next t ∧ Booted t) ∧
  (∀ (k : Nat) (s : State), Booted s → ∃ t, runStrict k s = .next t ∧ Booted t) ∧
  (∀ (w : Word) (s : State), SeqLeaves [.load w] s w)

/-- 60_exceptions.md R151, 43_control.md R141: From every state whose fault mark, if any, is the opcode of a
command that reads WORD and whose response, if it is ILLEGAL, carries res 0x0000, every step ends in such a
state again. The mark and the response are fields of the model (log entries 2 and 4). -/
def Obligations.RecordsStayLegal : Prop :=
  ∀ s t : State, RecordsLegal s → step s = .next t → RecordsLegal t

/-- 70_reset_and_hazards.md R170: The reset state has no fault mark and no response, so its records are legal:
the invariant RecordsLegal holds there. -/
def Obligations.ResetRecordsAreLegal : Prop :=
  RecordsLegal State.reset

/-- 10_state.md R32, 60_exceptions.md R152, 70_reset_and_hazards.md R172, 00_scope.md R5: Take two states that
agree in everything but a word that is not loaded. A step of the strict view that goes on from the one is
matched by a step from the other, to two states that again agree in everything, responses included, but a word
that is not loaded. This holds of a reset with a command in flight too: a command that reads the unloaded word
stops the strict view there (log entries 2 and 7). -/
def Obligations.UnloadedWordNeverShows : Prop :=
  ∀ s s' t : State, AgreeButUnloadedWord s s' →
    stepStrict s = .next t → ∃ t', stepStrict s' = .next t' ∧ AgreeButUnloadedWord t t'

/-- 70_reset_and_hazards.md R172, 70_reset_and_hazards.md R171, 60_exceptions.md R151, 60_exceptions.md R152:
From every state with no fault mark whose events to come meet the boot requirement, a LOAD before any command
that reads WORD is issued, after each reset and from the start if WORD is not loaded, the step goes on in the
strict view and ends in such a state again. A command in flight when a reset arrives counts as issued (log entry
7); the strict view is the model's place for the stop of R152 (log entry 2). -/
def Obligations.BootRequirementIsKept : Prop :=
  ∀ s : State, s.uninitMark = none → loadFirst s.wvalid s.input = true →
    ∃ t, stepStrict s = .next t ∧ t.uninitMark = none ∧ loadFirst t.wvalid t.input = true
end

