-- ==== Sys2Proof/Laws/Operands.lean ====
section
/-! SUPPORT. The views, the updates and the permutations of the word, bit by bit, said once. -/

namespace Sys2Proof.Machine

theorem getLsbD_topOf (w : Word) (i : Nat) (h : i < 5) : (topOf w).getLsbD i = w.getLsbD i := by
  simp [topOf, h]

theorem getLsbD_rightOf (w : Word) (i : Nat) (h : i < 5) : (rightOf w).getLsbD i = w.getLsbD (4 + i) := by
  simp [rightOf, h]

theorem getLsbD_bottomOf (w : Word) (i : Nat) (h : i < 5) :
    (bottomOf w).getLsbD i = w.getLsbD (8 + i) := by
  simp [bottomOf, h]

theorem getLsbD_leftOf (w : Word) (i : Nat) (h : i < 5) :
    (leftOf w).getLsbD i = w.getLsbD ((12 + i) % 16) := by
  have e : (leftOf w).getLsbD i =
      if i < 4 then (w.extractLsb' 12 4).getLsbD i else (w.extractLsb' 0 1).getLsbD (i - 4) :=
    BitVec.getLsbD_append
  rw [e]
  interval_cases i <;> simp

theorem getLsbD_edgeOperand (d : Word) (i : Nat) (h : i < 5) :
    (edgeOperand d).getLsbD i = d.getLsbD i := by
  simp [edgeOperand, h]

theorem getLsbD_zext16 {n : Nat} (x : BitVec n) (i : Nat) (h : i < 16) :
    (zext16 x).getLsbD i = x.getLsbD i := by
  simp [zext16, h]

theorem getLsbD_withTop (w : Word) (v : Edge) (j : Nat) (h : j < 16) :
    (withTop w v).getLsbD j = if j < 5 then v.getLsbD j else w.getLsbD j := by
  interval_cases j <;> simp [withTop, zext16]

theorem getLsbD_withRight (w : Word) (v : Edge) (j : Nat) (h : j < 16) :
    (withRight w v).getLsbD j = if 4 ≤ j ∧ j < 9 then v.getLsbD (j - 4) else w.getLsbD j := by
  interval_cases j <;> simp [withRight, zext16]

theorem getLsbD_withBottom (w : Word) (v : Edge) (j : Nat) (h : j < 16) :
    (withBottom w v).getLsbD j = if 8 ≤ j ∧ j < 13 then v.getLsbD (j - 8) else w.getLsbD j := by
  interval_cases j <;> simp [withBottom, zext16]

theorem getLsbD_withLeft (w : Word) (v : Edge) (j : Nat) (h : j < 16) :
    (withLeft w v).getLsbD j =
      if j = 0 then v.getLsbD 4 else if 12 ≤ j then v.getLsbD (j - 12) else w.getLsbD j := by
  interval_cases j <;> simp [withLeft, zext16]

theorem getLsbD_rev16 (w : Word) (j : Nat) (h : j < 16) :
    (rev16 w).getLsbD j = w.getLsbD (15 - j) := by
  interval_cases j <;> simp [rev16, BitVec.getLsbD_reverse, BitVec.getMsbD, -BitVec.getLsbD_eq_getElem]

theorem getLsbD_rotl16_four (w : Word) (j : Nat) (h : j < 16) :
    (rotl16 w 4).getLsbD j = w.getLsbD ((j + 12) % 16) := by
  interval_cases j <;> simp [rotl16]

theorem getLsbD_rotr16_five (w : Word) (j : Nat) (h : j < 16) :
    (rotr16 w 5).getLsbD j = w.getLsbD ((j + 5) % 16) := by
  interval_cases j <;> simp [rotr16, rotl16]

end Sys2Proof.Machine
end

