-- ==== Sys2Proof/Laws/State.lean ====
section
/-! SUPPORT. One lemma for each field and each update of the state, all true by unfolding once here. -/

namespace Sys2Proof.Machine

@[simp] theorem State.respond_word (s : State) (r : Word) (st : Status) :
    (s.respond r st).word = s.word := rfl
@[simp] theorem State.respond_wvalid (s : State) (r : Word) (st : Status) :
    (s.respond r st).wvalid = s.wvalid := rfl
@[simp] theorem State.respond_uninitMark (s : State) (r : Word) (st : Status) :
    (s.respond r st).uninitMark = s.uninitMark := rfl
@[simp] theorem State.respond_response (s : State) (r : Word) (st : Status) :
    (s.respond r st).response = some ⟨r, st⟩ := rfl
@[simp] theorem State.respond_input (s : State) (r : Word) (st : Status) :
    (s.respond r st).input = s.input := rfl
@[simp] theorem State.respond_draws (s : State) (r : Word) (st : Status) :
    (s.respond r st).draws = s.draws := rfl

@[simp] theorem State.writeWord_word (s : State) (w : Word) :
    (s.writeWord w).word = w := rfl
@[simp] theorem State.writeWord_wvalid (s : State) (w : Word) :
    (s.writeWord w).wvalid = s.wvalid := rfl
@[simp] theorem State.writeWord_uninitMark (s : State) (w : Word) :
    (s.writeWord w).uninitMark = s.uninitMark := rfl
@[simp] theorem State.writeWord_response (s : State) (w : Word) :
    (s.writeWord w).response = s.response := rfl
@[simp] theorem State.writeWord_input (s : State) (w : Word) :
    (s.writeWord w).input = s.input := rfl
@[simp] theorem State.writeWord_draws (s : State) (w : Word) :
    (s.writeWord w).draws = s.draws := rfl

@[simp] theorem State.loadWord_word (s : State) (w : Word) :
    (s.loadWord w).word = w := rfl
@[simp] theorem State.loadWord_wvalid (s : State) (w : Word) :
    (s.loadWord w).wvalid = true := rfl
@[simp] theorem State.loadWord_uninitMark (s : State) (w : Word) :
    (s.loadWord w).uninitMark = s.uninitMark := rfl
@[simp] theorem State.loadWord_response (s : State) (w : Word) :
    (s.loadWord w).response = s.response := rfl
@[simp] theorem State.loadWord_input (s : State) (w : Word) :
    (s.loadWord w).input = s.input := rfl
@[simp] theorem State.loadWord_draws (s : State) (w : Word) :
    (s.loadWord w).draws = s.draws := rfl

@[simp] theorem State.noteRead_word (s : State) (op : OpCode) :
    (s.noteRead op).word = s.word := rfl
@[simp] theorem State.noteRead_wvalid (s : State) (op : OpCode) :
    (s.noteRead op).wvalid = s.wvalid := rfl
@[simp] theorem State.noteRead_uninitMark (s : State) (op : OpCode) :
    (s.noteRead op).uninitMark = if s.wvalid then s.uninitMark else some (s.uninitMark.getD op) := rfl
@[simp] theorem State.noteRead_response (s : State) (op : OpCode) :
    (s.noteRead op).response = s.response := rfl
@[simp] theorem State.noteRead_input (s : State) (op : OpCode) :
    (s.noteRead op).input = s.input := rfl
@[simp] theorem State.noteRead_draws (s : State) (op : OpCode) :
    (s.noteRead op).draws = s.draws := rfl

@[simp] theorem State.raiseIllegal_word (s : State) :
    (s.raiseIllegal).word = s.word := rfl
@[simp] theorem State.raiseIllegal_wvalid (s : State) :
    (s.raiseIllegal).wvalid = s.wvalid := rfl
@[simp] theorem State.raiseIllegal_uninitMark (s : State) :
    (s.raiseIllegal).uninitMark = s.uninitMark := rfl
@[simp] theorem State.raiseIllegal_response (s : State) :
    (s.raiseIllegal).response = some ⟨0x0000#16, .illegal⟩ := rfl
@[simp] theorem State.raiseIllegal_input (s : State) :
    (s.raiseIllegal).input = s.input := rfl
@[simp] theorem State.raiseIllegal_draws (s : State) :
    (s.raiseIllegal).draws = s.draws := rfl

@[simp] theorem State.afterReset_word (s : State) :
    (s.afterReset).word = Config.resetWord s.draws := rfl
@[simp] theorem State.afterReset_wvalid (s : State) :
    (s.afterReset).wvalid = false := rfl
@[simp] theorem State.afterReset_uninitMark (s : State) :
    (s.afterReset).uninitMark = none := rfl
@[simp] theorem State.afterReset_response (s : State) :
    (s.afterReset).response = none := rfl
@[simp] theorem State.afterReset_input (s : State) :
    (s.afterReset).input = s.input := rfl
@[simp] theorem State.afterReset_draws (s : State) :
    (s.afterReset).draws = s.draws + 1 := rfl

@[simp] theorem State.drawn_word (s : State) :
    (s.drawn).word = s.word := rfl
@[simp] theorem State.drawn_wvalid (s : State) :
    (s.drawn).wvalid = s.wvalid := rfl
@[simp] theorem State.drawn_uninitMark (s : State) :
    (s.drawn).uninitMark = s.uninitMark := rfl
@[simp] theorem State.drawn_response (s : State) :
    (s.drawn).response = s.response := rfl
@[simp] theorem State.drawn_input (s : State) :
    (s.drawn).input = s.input := rfl
@[simp] theorem State.drawn_draws (s : State) :
    (s.drawn).draws = s.draws + 1 := rfl

@[simp] theorem State.withResponse_word (s : State) (r : Option Response) :
    (s.withResponse r).word = s.word := rfl
@[simp] theorem State.withResponse_wvalid (s : State) (r : Option Response) :
    (s.withResponse r).wvalid = s.wvalid := rfl
@[simp] theorem State.withResponse_uninitMark (s : State) (r : Option Response) :
    (s.withResponse r).uninitMark = s.uninitMark := rfl
@[simp] theorem State.withResponse_response (s : State) (r : Option Response) :
    (s.withResponse r).response = r := rfl
@[simp] theorem State.withResponse_input (s : State) (r : Option Response) :
    (s.withResponse r).input = s.input := rfl
@[simp] theorem State.withResponse_draws (s : State) (r : Option Response) :
    (s.withResponse r).draws = s.draws := rfl

@[simp] theorem State.withInput_word (s : State) (es : List HostEvent) :
    (s.withInput es).word = s.word := rfl
@[simp] theorem State.withInput_wvalid (s : State) (es : List HostEvent) :
    (s.withInput es).wvalid = s.wvalid := rfl
@[simp] theorem State.withInput_uninitMark (s : State) (es : List HostEvent) :
    (s.withInput es).uninitMark = s.uninitMark := rfl
@[simp] theorem State.withInput_response (s : State) (es : List HostEvent) :
    (s.withInput es).response = s.response := rfl
@[simp] theorem State.withInput_input (s : State) (es : List HostEvent) :
    (s.withInput es).input = es := rfl
@[simp] theorem State.withInput_draws (s : State) (es : List HostEvent) :
    (s.withInput es).draws = s.draws := rfl

@[simp] theorem State.idle_word (s : State) :
    (s.idle).word = s.word := rfl
@[simp] theorem State.idle_wvalid (s : State) :
    (s.idle).wvalid = s.wvalid := rfl
@[simp] theorem State.idle_uninitMark (s : State) :
    (s.idle).uninitMark = s.uninitMark := rfl
@[simp] theorem State.idle_response (s : State) :
    (s.idle).response = none := rfl
@[simp] theorem State.idle_input (s : State) :
    (s.idle).input = s.input := rfl
@[simp] theorem State.idle_draws (s : State) :
    (s.idle).draws = s.draws := rfl

@[simp] theorem State.reset_wvalid : State.reset.wvalid = false := rfl
@[simp] theorem State.reset_uninitMark : State.reset.uninitMark = none := rfl
@[simp] theorem State.reset_response : State.reset.response = none := rfl
@[simp] theorem State.reset_input : State.reset.input = [] := rfl

/-- A read of a loaded word leaves no trace. -/
@[simp] theorem State.noteRead_of_loaded (s : State) (op : OpCode) (h : s.wvalid = true) :
    s.noteRead op = s := by
  cases s; simp_all [State.noteRead]

/-- Putting the input back where it was changes nothing. -/
@[simp] theorem State.withInput_self (s : State) : s.withInput s.input = s := rfl

end Sys2Proof.Machine
end

