-- ==== Sys2Proof/Laws/Ops.lean ====
section
/-! SUPPORT. What each shared operation can do, said once. -/

namespace Sys2Proof.Machine

theorem readCommand_eq (op : OpCode) (view : Word → Word) (s : State) :
    readCommand op view s = .next ((s.noteRead op).respond (view s.word) .ok) := rfl

theorem updateCommand_eq (op : OpCode) (f : Word → Word) (s : State) :
    updateCommand op f s = .next (((s.noteRead op).writeWord (f s.word)).respond (f s.word) .ok) := rfl

/-- A reading command on a loaded word changes nothing but the response. -/
theorem readCommand_of_loaded (op : OpCode) (view : Word → Word) (s : State) (h : s.wvalid = true) :
    readCommand op view s = .next (s.respond (view s.word) .ok) := by
  simp [readCommand_eq, h]

/-- An updating command on a loaded word changes nothing but the word and the response. -/
theorem updateCommand_of_loaded (op : OpCode) (f : Word → Word) (s : State) (h : s.wvalid = true) :
    updateCommand op f s = .next ((s.writeWord (f s.word)).respond (f s.word) .ok) := by
  simp [updateCommand_eq, h]

/-- The strict view keeps a next state exactly when it carries no fault mark. -/
theorem strict_next_iff (o : Host.Outcome State Fault Refusal) (t : State) :
    strict o = .next t ↔ o = .next t ∧ t.uninitMark = none := by
  cases o with
  | next u =>
    cases h : u.uninitMark with
    | none => simp only [strict, h, Host.Outcome.next.injEq]; constructor
              · rintro rfl; exact ⟨rfl, h⟩
              · exact And.left
    | some op => simp only [strict, h, Host.Outcome.next.injEq, reduceCtorEq, false_iff, not_and]
                 rintro rfl; simp [h]
  | fault r => simp [strict]
  | refused r => simp [strict]

/-- The strict view of a next state with a fault mark is the fault UNINIT with its opcode. -/
theorem strict_of_mark (t : State) (op : OpCode) (h : t.uninitMark = some op) :
    strict (.next t) = .fault (.uninit op) := by simp [strict, h]

theorem runCommand_of_accept {c : Cmd} {i : Instr} (h : decode c = .accept i) (s : State) :
    runCommand c s = exec i s := by simp [runCommand, h]

theorem runCommand_of_reject {c : Cmd} {r : Reject} (h : decode c = .reject r) (s : State) :
    runCommand c s = .next s.raiseIllegal := by simp [runCommand, h, runIllegal]

/-- What counts as reading an unloaded word: a legal command that reads `WORD`, while `WVALID` is false. -/
theorem unloadedRead_eq_some_iff (v : Bool) (c : Cmd) (op : OpCode) :
    unloadedRead v c = some op ↔
      v = false ∧ ∃ i, decode c = .accept i ∧ readsWord i = true ∧ opcodeOf i = op := by
  cases h : decode c <;> cases v <;> simp [unloadedRead, h]

theorem unloadedRead_of_loaded (c : Cmd) : unloadedRead true c = none := by
  cases h : decode c <;> simp [unloadedRead, h]

theorem unloadedRead_of_reject {c : Cmd} {r : Reject} (h : decode c = .reject r) (v : Bool) :
    unloadedRead v c = none := by simp [unloadedRead, h]

theorem uninitInFlight_of_nil {s : State} (h : s.input = []) : uninitInFlight s = none := by
  simp [uninitInFlight, h]

theorem uninitInFlight_of_command {s : State} {c : Cmd} {es : List HostEvent}
    (h : s.input = .command c :: es) : uninitInFlight s = none := by simp [uninitInFlight, h]

theorem uninitInFlight_of_reset {s : State} {es : List HostEvent} (h : s.input = .reset :: es) :
    uninitInFlight s = none := by simp [uninitInFlight, h]

theorem uninitInFlight_of_resetDuring {s : State} {c : Cmd} {es : List HostEvent}
    (h : s.input = .resetDuring c :: es) :
    uninitInFlight s = (unloadedRead s.wvalid c).map s.uninitMark.getD := by simp [uninitInFlight, h]

/-- Where no unloaded read is in flight at a reset, the strict view of a step is that of its outcome. -/
theorem stepStrict_of_none {s : State} (h : uninitInFlight s = none) : stepStrict s = strict (step s) := by
  simp [stepStrict, h]

theorem stepStrict_of_some {s : State} {op : OpCode} (h : uninitInFlight s = some op) :
    stepStrict s = .fault (.uninit op) := by simp [stepStrict, h]

/-- Everything a step of the strict view that goes on can do. -/
theorem stepStrict_next_iff (s t : State) :
    stepStrict s = .next t ↔ uninitInFlight s = none ∧ step s = .next t ∧ t.uninitMark = none := by
  cases h : uninitInFlight s with
  | none => simp [stepStrict_of_none h, strict_next_iff]
  | some op => simp [stepStrict_of_some h]

theorem step_of_nil {s : State} (h : s.input = []) : step s = .next s.idle := by
  simp [step, advance, h]

theorem step_of_cons {s : State} {e : HostEvent} {es : List HostEvent} (h : s.input = e :: es) :
    step s = deliver e (s.withInput es) := by simp [step, advance, h]

end Sys2Proof.Machine
end

