-- ==== Sys2Proof/Laws/PerInstr.lean ====
section
/-! SUPPORT. Per-instruction families: statements about every command as syntax. -/

namespace Sys2Proof.Laws.EncodesLegally

/-- The encoder gives a legal word (30_encoding.md R64) whose opcode field is the command's opcode (R63). -/
def Statement (i : Instr) : Prop := legalCommand (encode i) = true ∧ opField (encode i) = opcodeOf i

/-- The low half of an encoded word is the opcode under a zero reserved field, whatever `DATA` holds. -/
theorem low_fields (data : Word) (op : OpCode) :
    (data ++ 0#12 ++ op).extractLsb' 0 4 = op ∧ (data ++ 0#12 ++ op).extractLsb' 4 12 = 0#12 := by
  refine ⟨?_, ?_⟩ <;>
  · apply BitVec.eq_of_getLsbD_eq
    intro j hj
    simp only [BitVec.getLsbD_extractLsb', BitVec.getLsbD_append]
    interval_cases j <;> simp

theorem of_assigned (i : Instr) (h : (opcodeOf i).toNat ≤ 0xD) : Statement i := by
  obtain ⟨h1, h2⟩ := low_fields (dataOf i) (opcodeOf i)
  refine ⟨?_, h1⟩
  rw [legalCommand, opcodeAssigned, reservedFieldZero, encode, h1, h2]
  simpa using h

theorem nop : Statement .nop := of_assigned _ (by decide)
theorem load (w : Word) : Statement (.load w) := of_assigned _ (by simp [opcodeOf])
theorem getTop : Statement .getTop := of_assigned _ (by decide)
theorem setTop (d : Word) : Statement (.setTop d) := of_assigned _ (by simp [opcodeOf])
theorem getRight : Statement .getRight := of_assigned _ (by decide)
theorem setRight (d : Word) : Statement (.setRight d) := of_assigned _ (by simp [opcodeOf])
theorem getBottom : Statement .getBottom := of_assigned _ (by decide)
theorem setBottom (d : Word) : Statement (.setBottom d) := of_assigned _ (by simp [opcodeOf])
theorem getLeft : Statement .getLeft := of_assigned _ (by decide)
theorem setLeft (d : Word) : Statement (.setLeft d) := of_assigned _ (by simp [opcodeOf])
theorem rotateCw : Statement .rotateCw := of_assigned _ (by decide)
theorem flipV : Statement .flipV := of_assigned _ (by decide)
theorem readWord : Statement .readWord := of_assigned _ (by decide)
theorem edgesFit (a b : Edge) : Statement (.edgesFit a b) := of_assigned _ (by simp [opcodeOf])

end Sys2Proof.Laws.EncodesLegally
end

