-- ==== Sys2Proof/Laws/Run.lean ====
section
/-! SUPPORT. Runs of the machine, one step at a time. -/

namespace Sys2Proof.Machine

theorem runSteps_zero (s : State) : runSteps 0 s = .next s := rfl

theorem runSteps_succ_of_next {s t : State} (h : step s = .next t) (k : Nat) :
    runSteps (k + 1) s = runSteps k t := by simp [runSteps, h]

theorem transcript_succ_of_next {s t : State} (h : step s = .next t) (k : Nat) :
    transcript (k + 1) s = (s.input.head?.elim [] fun e => observation e t) ++ transcript k t := by
  simp [transcript, h]

theorem runStrict_succ_of_next {s t : State} (h : stepStrict s = .next t) (k : Nat) :
    runStrict (k + 1) s = runStrict k t := by simp [runStrict, h]

/-- `runSteps` is the host's own run of the machine. -/
theorem core_run_eq_runSteps (k : Nat) (s : State) : Sys2Proof.core.run k s = runSteps k s := by
  induction k generalizing s with
  | zero => rfl
  | succ k ih =>
    cases h : step s with
    | next t =>
      have hs : Sys2Proof.core.step s = .next t := h
      simp only [Host.Core.run, hs, runSteps, h]
      exact ih t
    | fault r =>
      have hs : Sys2Proof.core.step s = .fault r := h
      simp only [Host.Core.run, hs, runSteps, h]
      rfl
    | refused r =>
      have hs : Sys2Proof.core.step s = .refused r := h
      simp only [Host.Core.run, hs, runSteps, h]
      rfl

end Sys2Proof.Machine
end

