-- ==== Sys2Proof/Tests/Slice0.lean ====
section
/-! SUPPORT. The model's own tests. Expected values are those of spec/95_test_vectors.md and of the examples
in the rules; each test names its source. A witness shows that the hypotheses of a statement can be met. -/

namespace Sys2Proof.Tests

open Sys2Proof.Machine Sys2Proof.Certificates

/-- A loaded tile with nothing to come. -/
def tile (w : Word) : State :=
  { word := w, wvalid := true, uninitMark := none, response := none, input := [], draws := 0 }

/-- A tile that no LOAD has written, holding some word. -/
def unloaded (w : Word) : State := { tile w with wvalid := false }

/-- The state with the given events to come. -/
def given (s : State) (es : List HostEvent) : State := { s with input := es }

/-- The word and the response of a next state. -/
def seen (o : Host.Outcome State Fault Refusal) : Option (Word × Bool × Option Response) :=
  match o with
  | .next t => some (t.word, t.wvalid, t.response)
  | .fault _ => none
  | .refused _ => none

/-- The fault of an outcome. -/
def faultOf (o : Host.Outcome State Fault Refusal) : Option Fault :=
  match o with
  | .next _ => none
  | .fault r => some r
  | .refused _ => none

/-! ### Decoding: words written out from 30_encoding.md R60, R61, R63 (DATA, RSV, OP) -/

theorem test_decode_nop :
    decode 0b10101011110011010000000000000000#32 = .accept .nop := by decide
theorem test_decode_load :
    decode 0b10000100001000010000000000000001#32 = .accept (.load 0b1000010000100001#16) := by decide
theorem test_decode_getTop :
    decode 0b11111111111111110000000000000010#32 = .accept .getTop := by decide
theorem test_decode_setTop :
    decode 0b00000000000101010000000000000011#32 = .accept (.setTop 0b10101#16) := by decide
theorem test_decode_getRight :
    decode 0b00000000000000000000000000000100#32 = .accept .getRight := by decide
theorem test_decode_setRight :
    decode 0b00000000000111110000000000000101#32 = .accept (.setRight 0b11111#16) := by decide
theorem test_decode_getBottom :
    decode 0b00000000000000010000000000000110#32 = .accept .getBottom := by decide
theorem test_decode_setBottom :
    decode 0b00000000000001000000000000000111#32 = .accept (.setBottom 0b100#16) := by decide
theorem test_decode_getLeft :
    decode 0b10000000000000000000000000001000#32 = .accept .getLeft := by decide
theorem test_decode_setLeft :
    decode 0b11111111111111110000000000001001#32 = .accept (.setLeft 0b1111111111111111#16) := by decide
theorem test_decode_rotateCw :
    decode 0b00000000000000000000000000001010#32 = .accept .rotateCw := by decide
theorem test_decode_flipV :
    decode 0b00000000000000000000000000001011#32 = .accept .flipV := by decide
theorem test_decode_readWord :
    decode 0b00000000000000000000000000001100#32 = .accept .readWord := by decide
theorem test_decode_edgesFit :
    decode 0b11111101111000100000000000001101#32 = .accept (.edgesFit 0b00010#5 0b11101#5) := by decide

/-- R66 and 95_test_vectors.md 2.8: the reserved opcodes and a word with RSV not zero. -/
theorem test_decode_rejects_by_name :
    decode 0x0000000E#32 = .reject .reservedOpcode ∧ decode 0x1234000F#32 = .reject .reservedOpcode ∧
    decode 0x00000012#32 = .reject .reservedField ∧ decode 0x00008001#32 = .reject .reservedField := by decide

/-- A command word in either byte order of the host (20_memory.md R41); five bytes are none (R67). -/
theorem test_decode_bytes :
    decodeBytes .leastSignificantFirst [0x01#8, 0x00#8, 0x21#8, 0x84#8] = .accept (.load 0x8421#16) ∧
    decodeBytes .mostSignificantFirst [0x84#8, 0x21#8, 0x00#8, 0x01#8] = .accept (.load 0x8421#16) ∧
    decodeBytes .mostSignificantFirst [0#8, 0#8, 0#8, 0#8, 0#8] = .reject .wrongLength := by decide

/-- The opcode table's numbering (bit 0 least significant): its LOAD row with a seed. -/
theorem test_decode_table_word :
    decodeTableWord 32 0x84210001 = some (.load 0x8421#16) ∧ decodeTableWord 32 0x0000000E = none ∧
    decodeTableWord 16 0x0002 = some .getTop := by decide

/-! ### Well-formedness: an ill-formed term for each check, and a well-formed one beside it -/

theorem test_legal_opcode_check :
    legalCommand 0x0000000D#32 = true ∧ opcodeAssigned 0x0000000E#32 = false ∧
    legalCommand 0x0000000E#32 = false := by decide
theorem test_legal_reserved_field_check :
    legalCommand 0xFFFF0002#32 = true ∧ reservedFieldZero 0x00000012#32 = false ∧
    legalCommand 0x00000012#32 = false := by decide
theorem test_line_word_range :
    (AsmLine.load 0xFFFF).wellFormed = true ∧ (AsmLine.load 0x10000).wellFormed = false ∧
    assemble (.load 0x10000) = none := by decide
theorem test_line_edge_range :
    (AsmLine.setTop 0xFFFF).wellFormed = true ∧ (AsmLine.setTop 0x10000).wellFormed = false ∧
    (AsmLine.setRight 0x10000).wellFormed = false ∧ (AsmLine.setBottom 0x10000).wellFormed = false ∧
    (AsmLine.setLeft 0x10000).wellFormed = false := by decide
theorem test_line_fit_range :
    (AsmLine.edgesFit 31 31).wellFormed = true ∧ (AsmLine.edgesFit 32 0).wellFormed = false ∧
    (AsmLine.edgesFit 0 32).wellFormed = false := by decide

/-! ### The assembler's text (R68, R11) -/

theorem test_text_numbers :
    assembleText "SET_TOP #21" = some [0x00150003#32] ∧
    assembleText "SET_TOP #0b1_0101 ; a comment" = some [0x00150003#32] ∧
    assembleText "; only a comment" = some [] := by decide
theorem test_text_rejects :
    assembleText "SET_TOP" = none ∧ assembleText "SET_TOP 21" = none ∧ assembleText "GET_TOP #1" = none ∧
    assembleText "SET_TOP #0b2" = none ∧ assembleText "FLIP_H" = none ∧ assembleText "LOAD #0x10000" = none := by
  decide
/-- 95_test_vectors.md P3, its legal lines. -/
theorem test_text_program :
    assembleProgram ["LOAD #0x69A6", "FLIP_V", "READ_WORD"] =
      some [0x69A60001#32, 0x0000000B#32, 0x0000000C#32] := by decide

/-! ### The commands: 95_test_vectors.md sections 2.1 to 2.8 -/

/-- 2.8, last row. -/
theorem test_load_ends_uninitialised :
    seen (exec (.load 0x1234#16) (unloaded 0x8421#16)) = some (0x1234#16, true, some ⟨0x1234#16, .ok⟩) := by decide
/-- 2.8. -/
theorem test_nop_before_load :
    seen (exec .nop (unloaded 0x8421#16)) = some (0x8421#16, false, some ⟨0x0000#16, .ok⟩) := by decide
/-- 2.1. -/
theorem test_getTop_1234 :
    seen (exec .getTop (tile 0x1234#16)) = some (0x1234#16, true, some ⟨0x0014#16, .ok⟩) := by decide
/-- 2.1. -/
theorem test_getTop_0ffe :
    seen (exec .getTop (tile 0x0FFE#16)) = some (0x0FFE#16, true, some ⟨0x001E#16, .ok⟩) := by decide
/-- 2.1. -/
theorem test_getRight_a5a5 :
    seen (exec .getRight (tile 0xA5A5#16)) = some (0xA5A5#16, true, some ⟨0x001A#16, .ok⟩) := by decide
/-- 2.1. -/
theorem test_getRight_0100 :
    seen (exec .getRight (tile 0x0100#16)) = some (0x0100#16, true, some ⟨0x0010#16, .ok⟩) := by decide
/-- 2.1. -/
theorem test_getBottom_1234 :
    seen (exec .getBottom (tile 0x1234#16)) = some (0x1234#16, true, some ⟨0x0012#16, .ok⟩) := by decide
/-- 2.1. -/
theorem test_getBottom_f001 :
    seen (exec .getBottom (tile 0xF001#16)) = some (0xF001#16, true, some ⟨0x0010#16, .ok⟩) := by decide
/-- 2.1. -/
theorem test_getLeft_69a6 :
    seen (exec .getLeft (tile 0x69A6#16)) = some (0x69A6#16, true, some ⟨0x0006#16, .ok⟩) := by decide
/-- 2.1. -/
theorem test_getLeft_8421 :
    seen (exec .getLeft (tile 0x8421#16)) = some (0x8421#16, true, some ⟨0x0018#16, .ok⟩) := by decide
/-- 2.2. -/
theorem test_setTop_wide :
    seen (exec (.setTop 0x03E5#16) (tile 0xFFFF#16)) = some (0xFFE5#16, true, some ⟨0xFFE5#16, .ok⟩) := by decide
/-- 2.2. -/
theorem test_setTop_8421 :
    seen (exec (.setTop 0x0010#16) (tile 0x8421#16)) = some (0x8430#16, true, some ⟨0x8430#16, .ok⟩) := by decide
/-- 2.2. -/
theorem test_setRight_wide :
    seen (exec (.setRight 0x03E5#16) (tile 0xFFFF#16)) = some (0xFE5F#16, true, some ⟨0xFE5F#16, .ok⟩) := by decide
/-- 2.2. -/
theorem test_setRight_8421 :
    seen (exec (.setRight 0x001F#16) (tile 0x8421#16)) = some (0x85F1#16, true, some ⟨0x85F1#16, .ok⟩) := by decide
/-- 2.2. -/
theorem test_setBottom_wide :
    seen (exec (.setBottom 0x0020#16) (tile 0x8421#16)) = some (0x8021#16, true, some ⟨0x8021#16, .ok⟩) := by decide
/-- 2.2. -/
theorem test_setBottom_ffff :
    seen (exec (.setBottom 0x0015#16) (tile 0xFFFF#16)) = some (0xF5FF#16, true, some ⟨0xF5FF#16, .ok⟩) := by decide
/-- 2.2. -/
theorem test_setLeft_8421 :
    seen (exec (.setLeft 0x0001#16) (tile 0x8421#16)) = some (0x1420#16, true, some ⟨0x1420#16, .ok⟩) := by decide
/-- 2.2. -/
theorem test_setLeft_wide :
    seen (exec (.setLeft 0xFFFF#16) (tile 0x0000#16)) = some (0xF001#16, true, some ⟨0xF001#16, .ok⟩) := by decide
/-- 2.4. -/
theorem test_rotateCw_8000 :
    seen (exec .rotateCw (tile 0x8000#16)) = some (0x0008#16, true, some ⟨0x0008#16, .ok⟩) := by decide
/-- 2.4. -/
theorem test_rotateCw_69a6 :
    seen (exec .rotateCw (tile 0x69A6#16)) = some (0x9A66#16, true, some ⟨0x9A66#16, .ok⟩) := by decide
/-- 2.5; the formula of 90_conflicts.md C5. -/
theorem test_flipV_69a6 :
    seen (exec .flipV (tile 0x69A6#16)) = some (0xB32C#16, true, some ⟨0xB32C#16, .ok⟩) := by decide
/-- 2.5; the formula of 90_conflicts.md C5. -/
theorem test_flipV_1234 :
    seen (exec .flipV (tile 0x1234#16)) = some (0x4162#16, true, some ⟨0x4162#16, .ok⟩) := by decide
/-- 2.6. -/
theorem test_readWord_b32c :
    seen (exec .readWord (tile 0xB32C#16)) = some (0xB32C#16, true, some ⟨0xB32C#16, .ok⟩) := by decide
/-- 2.7. -/
theorem test_edgesFit_fits :
    seen (exec (.edgesFit 0b10000#5 0b01111#5) (unloaded 0x8421#16)) = some (0x8421#16, false, some ⟨0x0001#16, .ok⟩) := by decide
/-- 2.7. -/
theorem test_edgesFit_one_bit_equal :
    seen (exec (.edgesFit 0b00001#5 0b11111#5) (tile 0x8421#16)) = some (0x8421#16, true, some ⟨0x0000#16, .ok⟩) := by decide

/-- 2.3, rows 1 and 2: the later setter decides word bit 0. -/
theorem test_shared_bit_order :
    seen (execSeq [.setLeft 0x10#16, .setTop 0x00#16] (tile 0#16)) = some (0x0000#16, true, some ⟨0x0000#16, .ok⟩) ∧
    seen (execSeq [.setTop 0x00#16, .setLeft 0x10#16] (tile 0#16)) = some (0x0001#16, true, some ⟨0x0001#16, .ok⟩) := by
  decide

/-- 2.8: an illegal word on a loaded tile, and LOAD with RSV = 0x800, which does not happen. -/
theorem test_illegal_words :
    seen (step (given (tile 0x8421#16) [.command 0x0000000E#32])) =
      some (0x8421#16, true, some ⟨0x0000#16, .illegal⟩) ∧
    seen (step (given (tile 0x8421#16) [.command 0x00008001#32])) =
      some (0x8421#16, true, some ⟨0x0000#16, .illegal⟩) := by decide

/-- 2.8: UNINIT of GET_TOP, ROTATE_CW and SET_TOP, and an illegal word decided before it. -/
theorem test_uninit :
    faultOf (stepStrict (given (unloaded 0x8421#16) [.command 0x00000002#32])) = some (.uninit 0x2#4) ∧
    faultOf (stepStrict (given (unloaded 0x8421#16) [.command 0x0000000A#32])) = some (.uninit 0xA#4) ∧
    faultOf (stepStrict (given (unloaded 0x8421#16) [.command 0x00150003#32])) = some (.uninit 0x3#4) ∧
    seen (stepStrict (given (unloaded 0x8421#16) [.command 0x0000000E#32])) =
      some (0x8421#16, false, some ⟨0x0000#16, .illegal⟩) := by decide

/-- R172, R171: a command that reads the unloaded word, issued and in flight when the reset arrives, is UNINIT
in the strict view, and the events do not meet the boot requirement. -/
theorem test_uninit_in_flight :
    faultOf (stepStrict (given (unloaded 0x8421#16) [.resetDuring 0x00000002#32])) = some (.uninit 0x2#4) ∧
    loadFirst false [.resetDuring 0x00000002#32] = false ∧
    loadFirst true [.resetDuring 0x00000002#32, .resetDuring 0x00000002#32] = false ∧
    loadFirst true [.resetDuring 0x00000002#32] = true ∧
    loadFirst false [.resetDuring 0x12340001#32] = true ∧
    safeProgram [.resetDuring 0x00000002#32] = false := by decide

/-- R152: the hardware's half: the command computes with the value held and answers OK. -/
theorem test_unloaded_read_goes_on :
    seen (step (given (unloaded 0x8421#16) [.command 0x00000002#32])) =
      some (0x8421#16, false, some ⟨0x0001#16, .ok⟩) := by decide

/-- R171: both outcomes of a reset in flight end in the reset state. -/
theorem test_reset_in_flight_ends_reset (c : Cmd) :
    ∃ t, resetInFlight c (tile 0x8421#16) = .next t ∧ t.wvalid = false := by
  unfold resetInFlight
  cases Config.inFlightCompletes (tile 0x8421#16).draws
  · exact ⟨_, rfl, rfl⟩
  · unfold runCommand
    cases decode c with
    | reject r => exact ⟨_, rfl, rfl⟩
    | accept i => cases i <;> exact ⟨_, rfl, rfl⟩

/-- R117, 2.6. -/
theorem test_render : render 0xB32C#16 = "1011001100101100".toList := by decide

/-- R64: no word belongs to two rows of the opcode table, mask 0x0000FFFF. -/
theorem test_rows_do_not_overlap :
    (List.range 14).Pairwise fun a b => BitVec.ofNat 16 a ≠ BitVec.ofNat 16 b := by decide

/-- Every command runs as the first after reset: here one that reads the word and one that does not. -/
theorem test_first_after_reset :
    (∃ t, step (State.reset.withFetchWord 32 0x00000002) = .next t ∧ t.uninitMark = some 0x2#4) ∧
    (∃ t, step (State.reset.withFetchWord 32 0x12340001) = .next t ∧ t.word = 0x1234#16) :=
  ⟨⟨_, rfl, rfl⟩, ⟨_, rfl, rfl⟩⟩

/-- 93_implementation_defined.md U4 and R172: a safe program, one that issues an illegal word, one that
reads before LOAD. -/
theorem test_safe_programs :
    safeProgram [.command 0x12340001#32, .command 0x00000002#32] = true ∧
    safeProgram [.command 0x12340001#32, .command 0x0000000E#32] = false ∧
    safeProgram [.command 0x00000002#32] = false := by decide

/-! ### Witnesses: the hypotheses of each statement can be met -/

/-- Two instances with their owners. -/
def pair : Platform := ⟨[⟨1, given (tile 0x8421#16) [.command 0x00000004#32]⟩, ⟨2, unloaded 0x0000#16⟩]⟩

theorem test_witness_DecodeInvertsEncode :
    decode 0xFDE2000D#32 = .accept (.edgesFit 0b00010#5 0b11101#5) := by decide

theorem test_witness_DecoderAcceptsExactlyTheLegalWords :
    Legal 0x0000000D#32 ∧ decode 0x0000000D#32 = .accept (.edgesFit 0#5 0#5) ∧ ¬ Legal 0x0000000E#32 ∧
      ¬ Legal 0x00000012#32 ∧ (given (tile 0#16) [.command 0x0000000E#32]).input = [.command 0x0000000E#32] := by decide

theorem test_witness_OpcodeMapSelectsTheCommand :
    (0x00000012#32 : Cmd).extractLsb' 4 12 ≠ 0#12 ∧
      ∀ k, k < 16 → (BitVec.ofNat 32 (0xFFFF0000 + k)).extractLsb' 4 12 = 0#12 ∧
        (BitVec.ofNat 32 (0xFFFF0000 + k)).extractLsb' 0 4 = BitVec.ofNat 4 k := by decide

theorem test_witness_IgnoredDataBitsNeverMatter :
    (Legal 0x00000002#32 ∧ (0x00000002#32 ^^^ 0xFFFF0002#32) &&& ~~~(ignoredBits 0x2#4) = 0#32) ∧
      (Legal 0x00050003#32 ∧ (0x00050003#32 ^^^ 0xFFE50003#32) &&& ~~~(ignoredBits 0x3#4) = 0#32) ∧
      (Legal 0x1D02000D#32 ∧ (0x1D02000D#32 ^^^ 0xFDE2000D#32) &&& ~~~(ignoredBits 0xD#4) = 0#32) ∧
      (Legal 0x12340001#32 ∧ (0x12340001#32 ^^^ 0x12340001#32) &&& ~~~(ignoredBits 0x1#4) = 0#32) := by decide

theorem test_witness_IllegalCommandOnlyReports :
    (given (unloaded 0#16) [.command 0x0000000F#32, .command 0x00000002#32]).input =
        .command 0x0000000F#32 :: [.command 0x00000002#32] ∧
      (0x0000000F#32 : Cmd).extractLsb' 0 4 = 0xF#4 ∧ (0x0000000E#32 : Cmd).extractLsb' 0 4 = 0xE#4 ∧
      (0x00000012#32 : Cmd).extractLsb' 4 12 ≠ 0#12 ∧ (unloaded 0#16).uninitMark = none ∧ Legal 0x00000002#32 := by decide

theorem test_witness_OutcomesAndTheirCauses :
    (given (unloaded 0#16) [.command 0x00000002#32]).uninitMark = none ∧
      (0xE ≤ ((0x0000000E#32 : Cmd).extractLsb' 0 4).toNat) ∧
      (((0x0000000D#32 : Cmd).extractLsb' 0 4).toNat ∈ [0x0, 0x1, 0xD]) ∧
      ¬ ((unloaded 0#16).wvalid = true ∨ ((0x0000000C#32 : Cmd).extractLsb' 0 4).toNat ∈ [0x0, 0x1, 0xD]) ∧
      ¬ ((unloaded 0#16).wvalid = true ∨ ((0x00000002#32 : Cmd).extractLsb' 0 4).toNat ∈ [0x0, 0x1, 0xD]) := by decide

theorem test_witness_PseudoInstructionsExpand :
    (tile 0x8421#16).wvalid = true ∧ assembleInstrs .rotateCcw = some [.rotateCw, .rotateCw, .rotateCw] ∧
      [Instr.rotateCw, .rotateCw, .rotateCw].length ≠ 1 := by decide

theorem test_witness_StepRunsTheDecodedCommand :
    (given (tile 0x8421#16) [.command 0x0000000A#32]).input = .command 0x0000000A#32 :: [] ∧
      decode 0x0000000A#32 = .accept .rotateCw := by decide

theorem test_witness_TableWordIsTheNextCommand :
    decodeTableWord 32 0xFFFF0009 = some (.setLeft 0xFFFF#16) := by decide

theorem test_witness_NoEventLeavesTheBlockWaiting :
    (tile 0x8421#16).input = [] := by decide

theorem test_witness_LegalCommandsCompleteWithOk :
    opcodeOf .nop = 0x0#4 ∧ opcodeOf (.load 0#16) = 0x1#4 ∧ opcodeOf (.edgesFit 0#5 0#5) = 0xD#4 ∧
      (tile 0#16).wvalid = true ∧ (unloaded 0#16).uninitMark = none := by decide

theorem test_witness_LoadConstructsTheTile :
    (0xFFFF0001#32 : Cmd).extractLsb' 0 16 = 0x0001#16 ∧ (unloaded 0#16).uninitMark = none := by decide

theorem test_witness_NopDoesNothing :
    (0xFFFF0000#32 : Cmd).extractLsb' 0 16 = 0x0000#16 ∧ (unloaded 0#16).uninitMark = none := by decide

theorem test_witness_EdgesFitTestsComplements :
    (0xFFFF000D#32 : Cmd).extractLsb' 0 16 = 0x000D#16 ∧ (unloaded 0#16).uninitMark = none := by decide

theorem test_witness_GetTopReturnsTheTopEdge :
    (0xFFFF0002#32 : Cmd).extractLsb' 0 16 = 0x0002#16 ∧ (tile 0x8421#16).wvalid = true ∧
      (unloaded 0x8421#16).wvalid = false ∧ (unloaded 0x8421#16).uninitMark = none := by decide

theorem test_witness_SetTopWritesTheTopEdge :
    (0xFFFF0003#32 : Cmd).extractLsb' 0 16 = 0x0003#16 ∧ (tile 0x8421#16).wvalid = true ∧
      (unloaded 0x8421#16).wvalid = false ∧ (unloaded 0x8421#16).uninitMark = none := by decide

theorem test_witness_GetRightReturnsTheRightEdge :
    (0xFFFF0004#32 : Cmd).extractLsb' 0 16 = 0x0004#16 ∧ (tile 0x8421#16).wvalid = true ∧
      (unloaded 0x8421#16).wvalid = false ∧ (unloaded 0x8421#16).uninitMark = none := by decide

theorem test_witness_SetRightWritesTheRightEdge :
    (0xFFFF0005#32 : Cmd).extractLsb' 0 16 = 0x0005#16 ∧ (tile 0x8421#16).wvalid = true ∧
      (unloaded 0x8421#16).wvalid = false ∧ (unloaded 0x8421#16).uninitMark = none := by decide

theorem test_witness_GetBottomReturnsTheBottomEdge :
    (0xFFFF0006#32 : Cmd).extractLsb' 0 16 = 0x0006#16 ∧ (tile 0x8421#16).wvalid = true ∧
      (unloaded 0x8421#16).wvalid = false ∧ (unloaded 0x8421#16).uninitMark = none := by decide

theorem test_witness_SetBottomWritesTheBottomEdge :
    (0xFFFF0007#32 : Cmd).extractLsb' 0 16 = 0x0007#16 ∧ (tile 0x8421#16).wvalid = true ∧
      (unloaded 0x8421#16).wvalid = false ∧ (unloaded 0x8421#16).uninitMark = none := by decide

theorem test_witness_GetLeftReturnsTheLeftEdge :
    (0xFFFF0008#32 : Cmd).extractLsb' 0 16 = 0x0008#16 ∧ (tile 0x8421#16).wvalid = true ∧
      (unloaded 0x8421#16).wvalid = false ∧ (unloaded 0x8421#16).uninitMark = none := by decide

theorem test_witness_SetLeftWritesTheLeftEdge :
    (0xFFFF0009#32 : Cmd).extractLsb' 0 16 = 0x0009#16 ∧ (tile 0x8421#16).wvalid = true ∧
      (unloaded 0x8421#16).wvalid = false ∧ (unloaded 0x8421#16).uninitMark = none := by decide

theorem test_witness_RotateCwRotatesLeftByFour :
    (0xFFFF000A#32 : Cmd).extractLsb' 0 16 = 0x000A#16 ∧ (tile 0x8421#16).wvalid = true ∧
      (unloaded 0x8421#16).wvalid = false ∧ (unloaded 0x8421#16).uninitMark = none := by decide

theorem test_witness_ReadWordReturnsTheWord :
    (0xFFFF000C#32 : Cmd).extractLsb' 0 16 = 0x000C#16 ∧ (tile 0x8421#16).wvalid = true ∧
      (unloaded 0x8421#16).wvalid = false ∧ (unloaded 0x8421#16).uninitMark = none := by decide

theorem test_witness_FlipVReversesThenRotatesRightByFive :
    (0xFFFF000B#32 : Cmd).extractLsb' 0 16 = 0x000B#16 ∧ (tile 0x69A6#16).wvalid = true ∧
      (∀ i, i < 16 → (0x6596#16 : Word).getLsbD i = (tile 0x69A6#16).word.getLsbD (15 - i)) ∧
      (unloaded 0#16).wvalid = false ∧ (unloaded 0#16).uninitMark = none ∧
      (tile 0x2000#16).word ∈ [0x0000#16, 0xFFFF#16, 0x0020#16, 0x2000#16] := by decide

theorem test_witness_EdgeBitsSitAtTheirWordBits :
    (tile 0xFFFF#16).wvalid = true ∧ (tile 0x0000#16).wvalid = true := by decide

theorem test_witness_SettersWriteOnlyTheirSpan :
    (tile 0xFFFF#16).wvalid = true ∧ (tile 0x0000#16).wvalid = true := by decide

theorem test_witness_SetThenGetRoundTrips :
    (tile 0xFFFF#16).wvalid = true ∧ (tile 0x0000#16).wvalid = true := by decide

theorem test_witness_FlipTwiceRestoresTheWord :
    (tile 0xFFFF#16).wvalid = true ∧ (tile 0x0000#16).wvalid = true := by decide

theorem test_witness_DumpRendersTheWord :
    (tile 0xFFFF#16).wvalid = true ∧ (tile 0x0000#16).wvalid = true := by decide

theorem test_witness_FourEdgesDetermineTheWord :
    (tile 0x8421#16).wvalid = true ∧ Answers .getTop (tile 0x8421#16) 0x0001#16 ∧
      Answers .getRight (tile 0x8421#16) 0x0002#16 ∧ Answers .getBottom (tile 0x8421#16) 0x0004#16 ∧
      Answers .getLeft (tile 0x8421#16) 0x0018#16 := ⟨rfl, ⟨_, rfl, rfl⟩, ⟨_, rfl, rfl⟩, ⟨_, rfl, rfl⟩, ⟨_, rfl, rfl⟩⟩

theorem test_witness_CommandsTouchOnlyWhatTheyMay :
    (∃ t, exec (.setLeft 0xFFFF#16) (tile 0#16) = .next t) ∧ mayWrite (.setLeft 0xFFFF#16) 11 = false ∧
      opcodeOf (.setLeft 0xFFFF#16) ≠ 0x1#4 ∧ opcodeOf (.load 0#16) ∈ [0x0#4, 0x1#4, 0xD#4] ∧ ¬ Legal 0x00000012#32 := ⟨⟨_, rfl⟩, by decide, by decide, by decide, by decide⟩

theorem test_witness_ReadingCommandsArePure :
    (opcodeOf .getLeft ∈ [0x2#4, 0x4#4, 0x6#4, 0x8#4, 0xC#4] ∧ (tile 0#16).wvalid = true) ∧
      opcodeOf .nop ∈ [0x0#4, 0xD#4] ∧ (∃ q, pair.stepAt 0 = .next q) ∧ (0 : Nat) ≠ 1 := ⟨by decide, by decide, ⟨_, rfl⟩, by decide⟩

theorem test_witness_RepeatedCommandsAndFixedPoints :
    (tile 0x8421#16).wvalid = true ∧ (tile 0xFFFF#16).word = 0xFFFF#16 ∧ (tile 0x0000#16).word = 0x0000#16 ∧
      Instr.flipV ∈ [Instr.rotateCw, Instr.flipV] := by decide

theorem test_witness_LaterSetterDecidesTheSharedBit :
    Side.top ≠ Side.left ∧ (tile 0#16).wvalid = true ∧ inSpan .left (wordBit .top 1) = false ∧
      inSpan .top 15 = false ∧ inSpan .right 15 = false ∧ inSpan .left (wordBit .top 0) = true := by decide

theorem test_witness_EarlierEdgeReadsBackDifferently :
    (tile 0#16).wvalid = true ∧ (0x10#16 : Word).getLsbD 4 ≠ (0x00#16 : Word).getLsbD 0 := by decide

theorem test_witness_AdjacentEdgeReadsTheWrittenSharedBit :
    (tile 0x8421#16).wvalid = true ∧ Answers (getSide (clockwise .top)) (tile 0x8421#16) 0x0002#16 ∧
      Answers (getSide .left) (tile 0x8421#16) 0x0018#16 := ⟨rfl, ⟨_, rfl, rfl⟩, ⟨_, rfl, rfl⟩⟩

theorem test_witness_RotateMovesEachEdgeClockwise :
    (tile 0x8421#16).wvalid = true ∧ (tile 0x8421#16).word = 0x8421#16 := by decide

theorem test_witness_RotateIsACycleOfFour :
    (tile 0x8421#16).wvalid = true ∧ SeqLeaves [.rotateCw] (tile 0x8421#16) 0x4218#16 := ⟨rfl, _, rfl, by decide⟩

theorem test_witness_FlipPermutesTheBits :
    (tile 0x001F#16).wvalid = true ∧ (tile 0x001F#16).word = 0x001F#16 := by decide

theorem test_witness_FitIsExactComplementarity :
    Fit 0b00001#5 0b11110#5 ∧ Fit 0b11110#5 0b00001#5 := ⟨fun _ => ⟨_, rfl, rfl⟩, fun _ => ⟨_, rfl, rfl⟩⟩

theorem test_witness_RunIsTheCommandsInOrder :
    (given (tile 0#16) [.command 0x00150003#32, .command 0x00000002#32]).input =
      [Instr.setTop 0x15#16, .getTop].map (fun i => HostEvent.command (encode i)) := by decide

theorem test_witness_HistoryIsSequential :
    (∃ t, runSteps 1 (given (tile 0#16) [.command 0x00000002#32]) = .next t) ∧
      (given (tile 0#16) [.command 0x00000002#32]).input = .command 0x00000002#32 :: [] := ⟨⟨_, rfl⟩, rfl⟩

theorem test_witness_InstancesAreIndependent :
    (∃ o, pair.tiles[1]? = some o) ∧ (0 : Nat) ≠ 1 ∧
      ∃ q r, pair.stepAt 0 = .next q ∧ q.stepAt 1 = .next r := ⟨⟨_, rfl⟩, by decide, _, _, rfl, rfl⟩

theorem test_witness_OnlyTheOwnerIssuesCommands :
    ∃ o, pair.tiles[1]? = some o ∧ o.owner = 2 ∧ o.owner ≠ 1 := ⟨_, rfl, rfl, by decide⟩

theorem test_witness_ResetStateHoldsNoValue :
    (2 ≤ (opcodeOf .getTop).toNat ∧ (opcodeOf .getTop).toNat ≤ 12) ∧
      (2 ≤ (opcodeOf .readWord).toNat ∧ (opcodeOf .readWord).toNat ≤ 12) := by decide

theorem test_witness_ResetSignalResets :
    (given (tile 0x8421#16) [.reset]).input = .reset :: [] ∧ (tile 0x8421#16).wvalid = true ∧
      (∃ o, pair.tiles[0]? = some o) := ⟨rfl, rfl, _, rfl⟩

theorem test_witness_ResetInFlightEndsInTheResetState :
    (given (tile 0x8421#16) [.resetDuring 0x00000002#32]).input = .resetDuring 0x00000002#32 :: [] := by decide

theorem test_witness_WvalidIsSetByLoadAndClearedByReset :
    (∃ t, step (given (unloaded 0#16) [.command 0x12340001#32]) = .next t ∧ t.wvalid = true) ∧
      (unloaded 0#16).wvalid = false ∧ decode 0x12340001#32 = .accept (.load 0x1234#16) ∧
      (∃ t, step (given (tile 0#16) [.reset]) = .next t ∧ t.wvalid = false) ∧ (unloaded 0#16).uninitMark = none := ⟨⟨_, rfl, rfl⟩, rfl, by decide, ⟨_, rfl, rfl⟩, rfl⟩

theorem test_witness_UninitialisedReadIsRecordedAndStops :
    (unloaded 0#16).wvalid = false ∧ (unloaded 0#16).uninitMark = none ∧
      (2 ≤ (opcodeOf .getTop).toNat ∧ (opcodeOf .readWord).toNat ≤ 12) ∧
      ({ unloaded 0#16 with uninitMark := some 0x2#4 } : State).uninitMark = some 0x2#4 ∧
      (given (unloaded 0#16) [.command 0x00000002#32]).input = .command 0x00000002#32 :: [] ∧
      (given (unloaded 0#16) [.reset]).input = .reset :: [] ∧
      (given (unloaded 0#16) [.resetDuring 0x00000002#32]).input = .resetDuring 0x00000002#32 :: [] ∧
      decode 0x00000002#32 = .accept .getTop ∧
      (given (tile 0#16) [.resetDuring 0x00000002#32]).wvalid = true ∧
      ¬ Legal 0x0000000E#32 := by decide

theorem test_witness_LoadFirstIsExactlyWhatARunNeeds :
    (unloaded 0#16).uninitMark = none ∧
      loadFirst false [.command 0x00000000#32, .command 0x0000000E#32, .command 0x12340001#32, .command 0x00000002#32] = true ∧
      loadFirst false [.command 0x00000002#32] = false ∧ loadFirst true [.reset, .command 0x00000002#32] = false ∧
      loadFirst false [.resetDuring 0x00000002#32] = false := by decide

theorem test_witness_BootRequirementIsKept :
    (given (unloaded 0#16) [.resetDuring 0x00000000#32, .command 0x12340001#32, .command 0x00000002#32]).uninitMark = none ∧
      loadFirst (given (unloaded 0#16) [.resetDuring 0x00000000#32, .command 0x12340001#32]).wvalid
        [.resetDuring 0x00000000#32, .command 0x12340001#32, .command 0x00000002#32] = true := by decide

theorem test_witness_LoadedTileStaysUsable :
    Booted (given (tile 0x8421#16) [.command 0x0000000E#32, .command 0x0000000A#32]) := by decide

theorem test_witness_RecordsStayLegal :
    RecordsLegal { unloaded 0#16 with uninitMark := some 0xC#4, response := some ⟨0x0000#16, .illegal⟩ } ∧
      ∃ t, step { unloaded 0#16 with uninitMark := some 0xC#4, response := some ⟨0x0000#16, .illegal⟩ } = .next t := ⟨by decide, _, rfl⟩

theorem test_witness_UnloadedWordNeverShows :
    AgreeButUnloadedWord (given (unloaded 0x0000#16) [.command 0x12340001#32]) (given (unloaded 0xFFFF#16) [.command 0x12340001#32]) ∧
      ∃ t, stepStrict (given (unloaded 0x0000#16) [.command 0x12340001#32]) = .next t := ⟨by decide, _, rfl⟩

end Sys2Proof.Tests
end

/-! ## What a command and a step do, as one next state

`exec` and `step` answer a next state in every state; the definitions below name that state field by field, and
one equation each ties them to the model. -/

namespace Sys2Proof.Machine

/-- The word a command leaves, from the word it finds (10_state.md R25). -/
def wordAfter : Instr → Word → Word
  | .load v, _ => v
  | .setTop d, w => withTop w (edgeOperand d)
  | .setRight d, w => withRight w (edgeOperand d)
  | .setBottom d, w => withBottom w (edgeOperand d)
  | .setLeft d, w => withLeft w (edgeOperand d)
  | .rotateCw, w => rotateWord w
  | .flipV, w => flipWord w
  | _, w => w

/-- The result a command answers, from the word it finds. -/
def resultOf : Instr → Word → Word
  | .nop, _ => 0x0000#16
  | .getTop, w => zext16 (topOf w)
  | .getRight, w => zext16 (rightOf w)
  | .getBottom, w => zext16 (bottomOf w)
  | .getLeft, w => zext16 (leftOf w)
  | .edgesFit a b, _ => boolRes (fits a b)
  | i, w => wordAfter i w

/-- The state a command leaves (`exec_eq`). -/
def State.afterInstr (s : State) (i : Instr) : State :=
  { s with
    word := wordAfter i s.word
    wvalid := s.wvalid || isLoad i
    uninitMark := if readsWord i then (s.noteRead (opcodeOf i)).uninitMark else s.uninitMark
    response := some ⟨resultOf i s.word, .ok⟩ }

@[simp] theorem State.afterInstr_word (s : State) (i : Instr) :
    (s.afterInstr i).word = wordAfter i s.word := rfl
@[simp] theorem State.afterInstr_wvalid (s : State) (i : Instr) :
    (s.afterInstr i).wvalid = (s.wvalid || isLoad i) := rfl
@[simp] theorem State.afterInstr_uninitMark (s : State) (i : Instr) :
    (s.afterInstr i).uninitMark =
      if readsWord i then (s.noteRead (opcodeOf i)).uninitMark else s.uninitMark := rfl
@[simp] theorem State.afterInstr_response (s : State) (i : Instr) :
    (s.afterInstr i).response = some ⟨resultOf i s.word, .ok⟩ := rfl
@[simp] theorem State.afterInstr_input (s : State) (i : Instr) : (s.afterInstr i).input = s.input := rfl
@[simp] theorem State.afterInstr_draws (s : State) (i : Instr) : (s.afterInstr i).draws = s.draws := rfl

/-- Every command completes, and this is all it does: each arm of the dispatch is one of four shapes, a bare
response, a load, a reading command and an updating command. -/
theorem exec_eq (i : Instr) (s : State) : exec i s = .next (s.afterInstr i) := by
  have reads (op : OpCode) (r w : Word) :
      ((s.noteRead op).writeWord w).respond r .ok =
        { s with
          word := w, wvalid := s.wvalid || false, uninitMark := (s.noteRead op).uninitMark
          response := some ⟨r, .ok⟩ } := by
    rw [Bool.or_false]; rfl
  have keeps (r : Word) :
      s.respond r .ok = { s with wvalid := s.wvalid || false, response := some ⟨r, .ok⟩ } := by
    rw [Bool.or_false]; rfl
  have loads (w : Word) : (s.loadWord w).respond w .ok =
      { s with word := w, wvalid := s.wvalid || true, response := some ⟨w, .ok⟩ } := by
    rw [Bool.or_true]; rfl
  cases i with
  | nop => exact congrArg _ (keeps _)
  | edgesFit a b => exact congrArg _ (keeps _)
  | load w => exact congrArg _ (loads w)
  | _ => exact congrArg _ (reads _ _ _)

theorem exec_next_iff (i : Instr) (s t : State) : exec i s = .next t ↔ t = s.afterInstr i := by
  rw [exec_eq, Host.Outcome.next.injEq, eq_comm]

/-- LOAD is the only command that `isLoad` picks out. -/
theorem isLoad_eq_true_iff (i : Instr) : isLoad i = true ↔ ∃ w, i = .load w := by
  cases i <;> simp [isLoad]

theorem isLoad_eq_false_iff_opcodeOf (i : Instr) : isLoad i = false ↔ opcodeOf i ≠ 0x1#4 := by
  cases i <;> simp [isLoad, opcodeOf]

/-- 60_exceptions.md R151: the commands that read `WORD` are those with opcodes 2 to 12. -/
theorem readsWord_eq_true_iff (i : Instr) :
    readsWord i = true ↔ 2 ≤ (opcodeOf i).toNat ∧ (opcodeOf i).toNat ≤ 12 := by
  cases i <;> simp [readsWord, opcodeOf]

/-- The result of a command that does not read `WORD` is the same on every word. -/
theorem resultOf_congr_of_not_readsWord {i : Instr} (h : readsWord i = false) (w w' : Word) :
    resultOf i w = resultOf i w' := by
  cases i with
  | nop | load | edgesFit => rfl
  | _ => simp [readsWord] at h

/-- Once a command has completed without leaving a fault mark, it had a loaded word or did not read it. -/
theorem readsWord_imp_wvalid_of_unmarked {s : State} {i : Instr} (h : (s.afterInstr i).uninitMark = none)
    (hr : readsWord i = true) : s.wvalid = true := by
  by_contra hv
  simp [hr, hv] at h

/-- 60_exceptions.md R152: a command that reads `WORD` before LOAD is the fault UNINIT with its opcode. -/
theorem execStrict_of_unloaded {i : Instr} {s : State} (hr : readsWord i = true) (hv : s.wvalid = false)
    (hm : s.uninitMark = none) : execStrict i s = .fault (.uninit (opcodeOf i)) := by
  rw [execStrict, exec_eq]
  exact strict_of_mark _ _ (by simp [hr, hv, hm])

/-! ### Legality -/

/-- 30_encoding.md R64: the decoder accepts exactly the legal words. -/
theorem exists_decode_accept_iff_legal (c : Cmd) : (∃ i, decode c = .accept i) ↔ Certificates.Legal c := by
  have row (op : OpCode) (data : Word) : (∃ i, decodeRow op data = .accept i) ↔ op.toNat ≤ 0xD := by
    unfold decodeRow
    split <;> simp_all
    omega
  by_cases h : rsvField c = 0#12
  · rw [decode, if_pos h, row]
    exact (and_iff_right h).symm
  · have hc : c.extractLsb' 4 12 ≠ 0#12 := h
    simp [decode, h, Certificates.Legal, hc]

theorem exists_decode_reject_of_not_legal {c : Cmd} (h : ¬ Certificates.Legal c) : ∃ r, decode c = .reject r := by
  cases hd : decode c with
  | accept i => exact absurd ((exists_decode_accept_iff_legal c).1 ⟨i, hd⟩) h
  | reject r => exact ⟨r, rfl⟩

/-! ### Command words and steps -/

/-- The state a command word leaves, legal or not (`runCommand_eq`). -/
def State.afterCommand (s : State) (c : Cmd) : State :=
  match decode c with
  | .accept i => s.afterInstr i
  | .reject _ => s.raiseIllegal

theorem State.afterCommand_of_accept {c : Cmd} {i : Instr} (h : decode c = .accept i) (s : State) :
    s.afterCommand c = s.afterInstr i := by simp [State.afterCommand, h]

theorem State.afterCommand_of_reject {c : Cmd} {r : Reject} (h : decode c = .reject r) (s : State) :
    s.afterCommand c = s.raiseIllegal := by simp [State.afterCommand, h]

theorem runCommand_eq (c : Cmd) (s : State) : runCommand c s = .next (s.afterCommand c) := by
  cases h : decode c with
  | accept i => rw [runCommand_of_accept h, exec_eq, State.afterCommand_of_accept h]
  | reject r => rw [runCommand_of_reject h, State.afterCommand_of_reject h]

@[simp] theorem State.afterCommand_input (s : State) (c : Cmd) : (s.afterCommand c).input = s.input := by
  cases h : decode c with
  | accept i => simp [State.afterCommand_of_accept h]
  | reject r => simp [State.afterCommand_of_reject h]

@[simp] theorem State.afterCommand_draws (s : State) (c : Cmd) : (s.afterCommand c).draws = s.draws := by
  cases h : decode c with
  | accept i => simp [State.afterCommand_of_accept h]
  | reject r => simp [State.afterCommand_of_reject h]

/-- A command word sets `WVALID` when it is a LOAD and otherwise leaves it as it was. -/
@[simp] theorem State.afterCommand_wvalid (s : State) (c : Cmd) :
    (s.afterCommand c).wvalid = (s.wvalid || loadsWord c) := by
  cases h : decode c with
  | accept i => simp [State.afterCommand_of_accept h, loadsWord, h]
  | reject r => simp [State.afterCommand_of_reject h, loadsWord, h]

/-- A command word that leaves no fault mark did not read an unloaded word. -/
theorem unloadedRead_of_unmarked {s : State} {c : Cmd} (h : (s.afterCommand c).uninitMark = none) :
    unloadedRead s.wvalid c = none := by
  refine Option.eq_none_iff_forall_ne_some.2 fun op hop => ?_
  obtain ⟨hv, i, hi, hr, -⟩ := (unloadedRead_eq_some_iff _ _ _).1 hop
  rw [State.afterCommand_of_accept hi] at h
  simp [readsWord_imp_wvalid_of_unmarked h hr] at hv

/-- The state a reset leaves that arrives while command `c` is in flight (70_reset_and_hazards.md R171): the
reset state, with the response of `c` if it completed. -/
def State.afterResetDuring (s : State) (c : Cmd) : State :=
  s.drawn.afterReset.withResponse
    (if Config.inFlightCompletes s.draws then (s.drawn.afterCommand c).response else none)

@[simp] theorem State.afterResetDuring_word (s : State) (c : Cmd) :
    (s.afterResetDuring c).word = Config.resetWord (s.draws + 1) := rfl
@[simp] theorem State.afterResetDuring_wvalid (s : State) (c : Cmd) :
    (s.afterResetDuring c).wvalid = false := rfl
@[simp] theorem State.afterResetDuring_uninitMark (s : State) (c : Cmd) :
    (s.afterResetDuring c).uninitMark = none := rfl
@[simp] theorem State.afterResetDuring_response (s : State) (c : Cmd) :
    (s.afterResetDuring c).response =
      if Config.inFlightCompletes s.draws then (s.drawn.afterCommand c).response else none := rfl
@[simp] theorem State.afterResetDuring_input (s : State) (c : Cmd) :
    (s.afterResetDuring c).input = s.input := rfl
@[simp] theorem State.afterResetDuring_draws (s : State) (c : Cmd) :
    (s.afterResetDuring c).draws = s.draws + 2 := rfl

theorem resetInFlight_eq (c : Cmd) (s : State) : resetInFlight c s = .next (s.afterResetDuring c) := by
  cases h : Config.inFlightCompletes s.draws with
  | true =>
    simp [resetInFlight, h, runCommand_eq, State.afterResetDuring, State.afterReset, State.withResponse]
  | false => simp [resetInFlight, h, State.afterResetDuring, State.afterReset, State.withResponse]

theorem step_of_command {s : State} {c : Cmd} {es : List HostEvent} (h : s.input = .command c :: es) :
    step s = .next ((s.withInput es).afterCommand c) :=
  (step_of_cons h).trans (runCommand_eq c _)

theorem step_of_reset {s : State} {es : List HostEvent} (h : s.input = .reset :: es) :
    step s = .next (s.withInput es).afterReset := step_of_cons h

theorem step_of_resetDuring {s : State} {c : Cmd} {es : List HostEvent}
    (h : s.input = .resetDuring c :: es) : step s = .next ((s.withInput es).afterResetDuring c) :=
  (step_of_cons h).trans (resetInFlight_eq c _)

/-- Everything a step can do, by the event it takes. -/
theorem step_cases {s t : State} (h : step s = .next t) :
    (s.input = [] ∧ t = s.idle) ∨
    (∃ c es, s.input = .command c :: es ∧ t = (s.withInput es).afterCommand c) ∨
    (∃ es, s.input = .reset :: es ∧ t = (s.withInput es).afterReset) ∨
    (∃ c es, s.input = .resetDuring c :: es ∧ t = (s.withInput es).afterResetDuring c) := by
  match hin : s.input with
  | [] => exact .inl ⟨rfl, by simpa [step_of_nil hin, eq_comm] using h⟩
  | .command c :: es =>
    exact .inr (.inl ⟨c, es, rfl, by simpa [step_of_command hin, eq_comm] using h⟩)
  | .reset :: es =>
    exact .inr (.inr (.inl ⟨es, rfl, by simpa [step_of_reset hin, eq_comm] using h⟩))
  | .resetDuring c :: es =>
    exact .inr (.inr (.inr ⟨c, es, rfl, by simpa [step_of_resetDuring hin, eq_comm] using h⟩))

/-- Every step goes on. -/
theorem exists_step_next (s : State) : ∃ t, step s = .next t := by
  match hin : s.input with
  | [] => exact ⟨_, step_of_nil hin⟩
  | .command c :: es => exact ⟨_, step_of_command hin⟩
  | .reset :: es => exact ⟨_, step_of_reset hin⟩
  | .resetDuring c :: es => exact ⟨_, step_of_resetDuring hin⟩

end Sys2Proof.Machine

/-! ## The word that no LOAD has written (O58) -/

namespace Sys2Proof.Machine

/-- States that agree on everything but an unloaded word are the same state once the word is loaded, so what a
command leaves agrees unless it reads an unloaded word. -/
theorem AgreeButUnloadedWord.afterInstr {s s' : State} {i : Instr} (h : AgreeButUnloadedWord s s')
    (hr : readsWord i = true → s.wvalid = true) :
    AgreeButUnloadedWord (s.afterInstr i) (s'.afterInstr i) := by
  obtain ⟨hv, hm, -, hin, hd, hw⟩ := h
  have hres : resultOf i s.word = resultOf i s'.word := by
    cases hri : readsWord i with
    | true => rw [hw (hr hri)]
    | false => exact resultOf_congr_of_not_readsWord hri _ _
  have hword : (s.wvalid || isLoad i) = true → wordAfter i s.word = wordAfter i s'.word := by
    rw [Bool.or_eq_true, isLoad_eq_true_iff]
    rintro (hl | ⟨w, rfl⟩)
    · rw [hw hl]
    · rfl
  exact ⟨by simp [hv], by simp [hv, hm], by simp [hres], hin, hd, hword⟩

theorem AgreeButUnloadedWord.afterCommand {s s' : State} {c : Cmd} (h : AgreeButUnloadedWord s s')
    (hc : unloadedRead s.wvalid c = none) :
    AgreeButUnloadedWord (s.afterCommand c) (s'.afterCommand c) := by
  cases hd : decode c with
  | accept i =>
    rw [State.afterCommand_of_accept hd, State.afterCommand_of_accept hd]
    refine h.afterInstr fun hr => ?_
    by_contra hv
    simp [unloadedRead, hd, hr, hv] at hc
  | reject r =>
    obtain ⟨hv, hm, -, hin, hdr, hw⟩ := h
    rw [State.afterCommand_of_reject hd, State.afterCommand_of_reject hd]
    exact ⟨hv, hm, rfl, hin, hdr, hw⟩

theorem AgreeButUnloadedWord.afterReset {s s' : State} (h : AgreeButUnloadedWord s s') :
    AgreeButUnloadedWord s.afterReset s'.afterReset := by
  obtain ⟨-, -, -, hin, hd, -⟩ := h
  exact ⟨rfl, rfl, rfl, hin, by simp [hd], by simp⟩

theorem AgreeButUnloadedWord.afterResetDuring {s s' : State} {c : Cmd} (h : AgreeButUnloadedWord s s')
    (hc : unloadedRead s.wvalid c = none) :
    AgreeButUnloadedWord (s.afterResetDuring c) (s'.afterResetDuring c) := by
  obtain ⟨hv, hm, hres, hin, hd, hw⟩ := h
  have hdrawn : AgreeButUnloadedWord s.drawn s'.drawn := ⟨hv, hm, hres, hin, by simp [hd], hw⟩
  obtain ⟨-, -, hresponse, -⟩ := hdrawn.afterCommand hc
  exact ⟨rfl, rfl, by simp [hd, hresponse], hin, by simp [hd], by simp⟩

theorem AgreeButUnloadedWord.withInput {s s' : State} (h : AgreeButUnloadedWord s s') (es : List HostEvent) :
    AgreeButUnloadedWord (s.withInput es) (s'.withInput es) := by
  obtain ⟨hv, hm, hres, -, hd, hw⟩ := h
  exact ⟨hv, hm, hres, rfl, hd, hw⟩

theorem AgreeButUnloadedWord.idle {s s' : State} (h : AgreeButUnloadedWord s s') :
    AgreeButUnloadedWord s.idle s'.idle := by
  obtain ⟨hv, hm, -, hin, hd, hw⟩ := h
  exact ⟨hv, hm, rfl, hin, hd, hw⟩

/-- Whether an unloaded read is in flight at a reset does not depend on the word. -/
theorem AgreeButUnloadedWord.uninitInFlight_eq {s s' : State} (h : AgreeButUnloadedWord s s') :
    uninitInFlight s' = uninitInFlight s := by
  obtain ⟨hv, hm, -, hin, -⟩ := h
  unfold uninitInFlight
  rw [hin, hv, hm]

/-- Settles O58: a command of a step that goes on, in flight at a reset or not, has a loaded word or does not
read it, and every event keeps the agreement then. -/
theorem unloadedWordNeverShows : Obligations.UnloadedWordNeverShows := by
  intro s s' t h hs
  obtain ⟨hfl, hstep, hmark⟩ := (stepStrict_next_iff s t).1 hs
  have matched {t' : State} (hstep' : step s' = .next t') (ht : AgreeButUnloadedWord t t') :
      ∃ t', stepStrict s' = .next t' ∧ AgreeButUnloadedWord t t' := by
    have hmark' : t'.uninitMark = none := by
      obtain ⟨-, hm, -⟩ := ht
      exact hm ▸ hmark
    exact ⟨t', (stepStrict_next_iff s' t').2 ⟨h.uninitInFlight_eq.trans hfl, hstep', hmark'⟩, ht⟩
  have hin : s'.input = s.input := by
    obtain ⟨-, -, -, hin, -⟩ := h
    exact hin.symm
  obtain ⟨hnil, rfl⟩ | ⟨c, es, hcmd, rfl⟩ | ⟨es, hreset, rfl⟩ | ⟨c, es, hdur, rfl⟩ := step_cases hstep
  · exact matched (step_of_nil (hin.trans hnil)) h.idle
  · exact matched (step_of_command (hin.trans hcmd))
      ((h.withInput es).afterCommand (unloadedRead_of_unmarked hmark))
  · exact matched (step_of_reset (hin.trans hreset)) (h.withInput es).afterReset
  · have hc : unloadedRead s.wvalid c = none := by
      simpa [uninitInFlight_of_resetDuring hdur] using hfl
    exact matched (step_of_resetDuring (hin.trans hdur)) ((h.withInput es).afterResetDuring hc)

end Sys2Proof.Machine

/-! ## `WVALID` over a step, the reset state and the next command (O52, O49, O11) -/

namespace Sys2Proof.Machine

theorem loadsWord_eq_true_iff (c : Cmd) : loadsWord c = true ↔ ∃ w, decode c = .accept (.load w) := by
  cases h : decode c with
  | accept i => simp [loadsWord, h, isLoad_eq_true_iff]
  | reject r => simp [loadsWord, h]

/-- 10_state.md R30: a step that makes `WVALID` true took a LOAD. -/
theorem step_sets_wvalid {s t : State} (h : step s = .next t) (hs : s.wvalid = false) (ht : t.wvalid = true) :
    ∃ c w rest, s.input = .command c :: rest ∧ decode c = .accept (.load w) := by
  obtain ⟨-, rfl⟩ | ⟨c, es, hin, rfl⟩ | ⟨es, -, rfl⟩ | ⟨c, es, -, rfl⟩ := step_cases h
  · simp [hs] at ht
  · obtain ⟨w, hw⟩ := (loadsWord_eq_true_iff c).1 (by simpa [hs] using ht)
    exact ⟨c, w, es, hin, hw⟩
  · simp at ht
  · simp at ht

/-- 10_state.md R30: a step that makes `WVALID` false took a reset. -/
theorem step_clears_wvalid {s t : State} (h : step s = .next t) (hs : s.wvalid = true)
    (ht : t.wvalid = false) : ∃ e rest, s.input = e :: rest ∧ e.isCommand = false := by
  obtain ⟨-, rfl⟩ | ⟨c, es, -, rfl⟩ | ⟨es, hin, rfl⟩ | ⟨c, es, hin, rfl⟩ := step_cases h
  · simp [hs] at ht
  · simp [hs] at ht
  · exact ⟨_, es, hin, rfl⟩
  · exact ⟨_, es, hin, rfl⟩

/-- Settles O52, clause by clause from what a step does to `WVALID`. -/
theorem wvalidIsSetByLoadAndClearedByReset : Obligations.WvalidIsSetByLoadAndClearedByReset := by
  refine ⟨rfl, fun s t => step_sets_wvalid, fun s c w rest hin hd => ?_, fun s t => step_clears_wvalid,
    fun i s hv hm hlo hhi => execStrict_of_unloaded ((readsWord_eq_true_iff i).2 ⟨hlo, hhi⟩) hv hm⟩
  refine ⟨_, step_of_command hin, ?_⟩
  simp [(loadsWord_eq_true_iff c).2 ⟨w, hd⟩]

/-- Settles O49: the reset state is an unmarked state with no loaded word. -/
theorem resetStateHoldsNoValue : Obligations.ResetStateHoldsNoValue :=
  ⟨rfl, rfl, fun i hlo hhi => execStrict_of_unloaded ((readsWord_eq_true_iff i).2 ⟨hlo, hhi⟩) rfl rfl⟩

theorem decode_tableCommand_of_decodeTableWord {nbits w : Nat} {i : Instr}
    (h : decodeTableWord nbits w = some i) : decode (tableCommand nbits w) = .accept i := by
  unfold decodeTableWord at h
  split at h
  · split at h
    · next j hj => rw [hj, Option.some.inj h]
    · simp at h
  · simp at h

/-- Settles O11: the issued word is taken as the next event, and the events behind it are those of `s`. -/
theorem tableWordIsTheNextCommand : Obligations.TableWordIsTheNextCommand := by
  intro s nbits w i h
  have hin : (s.withFetchWord nbits w).input = .command (tableCommand nbits w) :: s.input := rfl
  calc step (s.withFetchWord nbits w)
      = deliver (.command (tableCommand nbits w)) ((s.withFetchWord nbits w).withInput s.input) :=
        step_of_cons hin
    _ = runCommand (tableCommand nbits w) s := rfl
    _ = exec i s := runCommand_of_accept (decode_tableCommand_of_decodeTableWord h) s

/-! ## A platform steps one block at a time (O47) -/

/-- Everything a step of one block of a platform can do. -/
theorem Platform.stepAt_next_iff (p q : Platform) (k : Nat) :
    p.stepAt k = .next q ↔
      ∃ o t, p.tiles[k]? = some o ∧ step o.block = .next t ∧ q = ⟨p.tiles.set k { o with block := t }⟩ := by
  cases hk : p.tiles[k]? with
  | none => simp [Platform.stepAt, hk]
  | some o =>
    obtain ⟨t, ht⟩ := exists_step_next o.block
    simp [Platform.stepAt, hk, ht, eq_comm]

/-- A step of one block leaves every other one as it was. -/
theorem Platform.stepAt_frame {p q : Platform} {k k' : Nat} (h : p.stepAt k = .next q) (hne : k' ≠ k) :
    q.tiles[k']? = p.tiles[k']? := by
  obtain ⟨o, t, -, -, rfl⟩ := (Platform.stepAt_next_iff p q k).1 h
  exact List.getElem?_set_ne hne.symm

/-- Steps of two different blocks commute. -/
theorem Platform.stepAt_comm {p q r : Platform} {i j : Nat} (hne : i ≠ j) (hi : p.stepAt i = .next q)
    (hj : q.stepAt j = .next r) : ∃ q', p.stepAt j = .next q' ∧ q'.stepAt i = .next r := by
  obtain ⟨b, u, hb, hu, rfl⟩ := (Platform.stepAt_next_iff q r j).1 hj
  have hbp : p.tiles[j]? = some b := (Platform.stepAt_frame hi hne.symm).symm.trans hb
  obtain ⟨a, t, ha, ht, rfl⟩ := (Platform.stepAt_next_iff p q i).1 hi
  have hj' : p.stepAt j = .next ⟨p.tiles.set j { b with block := u }⟩ :=
    (Platform.stepAt_next_iff _ _ j).2 ⟨b, u, hbp, hu, rfl⟩
  refine ⟨_, hj', (Platform.stepAt_next_iff _ _ i).2 ⟨a, t, ?_, ht, ?_⟩⟩
  · exact (Platform.stepAt_frame hj' hne).trans ha
  · simp only [List.set_comm _ _ hne]

/-- Settles O47: the platform's step is the block's own step put back in its place of the list. -/
theorem instancesAreIndependent : Obligations.InstancesAreIndependent := by
  refine ⟨fun p k o hk => ?_, fun p q r i j => Platform.stepAt_comm⟩
  obtain ⟨t, ht⟩ := exists_step_next o.block
  have hq : p.stepAt k = .next ⟨p.tiles.set k { o with block := t }⟩ :=
    (Platform.stepAt_next_iff _ _ k).2 ⟨o, t, hk, ht, rfl⟩
  obtain ⟨hlt, -⟩ := List.getElem?_eq_some_iff.1 hk
  exact ⟨_, t, hq, ht, List.length_set, List.getElem?_set_self hlt, fun k' => Platform.stepAt_frame hq⟩

end Sys2Proof.Machine

/-! ## The four edges of the word, said once for all sides (O29, O30, O31) -/

namespace Sys2Proof.Machine

open Sys2Proof.Certificates

/-- The view of the word that the getter of a side returns (10_state.md R21). -/
@[simp] def edgeOf : Side → Word → Edge
  | .top => topOf
  | .right => rightOf
  | .bottom => bottomOf
  | .left => leftOf

/-- The word with one edge replaced (40_edge_accessors.md R82, R84, R86, R88). -/
@[simp] def withEdge : Side → Word → Edge → Word
  | .top => withTop
  | .right => withRight
  | .bottom => withBottom
  | .left => withLeft

theorem exec_getSide (x : Side) (s : State) :
    exec (getSide x) s = readCommand (opcodeOf (getSide x)) (fun w => zext16 (edgeOf x w)) s := by
  cases x <;> rfl

theorem exec_setSide (x : Side) (d : Word) (s : State) :
    exec (setSide x d) s =
      updateCommand (opcodeOf (setSide x d)) (fun w => withEdge x w (edgeOperand d)) s := by
  cases x <;> rfl

/-- The one result with which a getter answers on a loaded word. -/
theorem answers_getSide_iff (x : Side) {s : State} (h : s.wvalid = true) (r : Word) :
    Answers (getSide x) s r ↔ r = zext16 (edgeOf x s.word) := by
  simp only [Answers, exec_getSide, readCommand_of_loaded _ _ s h]
  simp [eq_comm]

/-- A setter and then a getter: the getter answers its edge of the word the setter has written. -/
theorem seqAnswers_setSide_getSide (x y : Side) (d : Word) {s : State} (h : s.wvalid = true) :
    SeqAnswers [setSide x d, getSide y] s (zext16 (edgeOf y (withEdge x s.word (edgeOperand d)))) := by
  simp only [SeqAnswers, execSeq, exec_setSide, exec_getSide, updateCommand_of_loaded _ _ s h, readCommand_eq]
  exact ⟨_, rfl, rfl⟩

/-! ### Which word bits an edge holds -/

theorem wordBit_lt (x : Side) (i : Nat) : wordBit x i < 16 := Nat.mod_lt _ (by decide)

/-- 10_state.md R22: the last bit of an edge is the first bit of the clockwise next one. -/
theorem wordBit_four (x : Side) : wordBit x 4 = wordBit (clockwise x) 0 := by cases x <;> rfl

/-- Every word bit is one of the first four bits of some edge. -/
theorem exists_wordBit_eq : ∀ j < 16, ∃ x i, i < 4 ∧ wordBit x i = j := by
  intro j hj
  obtain hq | hq | hq | hq : j / 4 = 0 ∨ j / 4 = 1 ∨ j / 4 = 2 ∨ j / 4 = 3 := by omega
  · exact ⟨.top, j % 4, by omega, by simp only [wordBit, firstBit]; omega⟩
  · exact ⟨.right, j % 4, by omega, by simp only [wordBit, firstBit]; omega⟩
  · exact ⟨.bottom, j % 4, by omega, by simp only [wordBit, firstBit]; omega⟩
  · exact ⟨.left, j % 4, by omega, by simp only [wordBit, firstBit]; omega⟩

theorem wordBit_top {i : Nat} (h : i < 5) : wordBit .top i = i := by
  simp only [wordBit, firstBit]; omega
theorem wordBit_right {i : Nat} (h : i < 5) : wordBit .right i = 4 + i := by
  simp only [wordBit, firstBit]; omega
theorem wordBit_bottom {i : Nat} (h : i < 5) : wordBit .bottom i = 8 + i := by
  simp only [wordBit, firstBit]; omega
theorem wordBit_left (i : Nat) : wordBit .left i = (12 + i) % 16 := rfl

theorem inSpan_top : ∀ j < 16, inSpan .top j = decide (j < 5) := by decide
theorem inSpan_right : ∀ j < 16, inSpan .right j = decide (4 ≤ j ∧ j < 9) := by decide
theorem inSpan_bottom : ∀ j < 16, inSpan .bottom j = decide (8 ≤ j ∧ j < 13) := by decide
theorem inSpan_left : ∀ j < 16, inSpan .left j = decide (j = 0 ∨ 12 ≤ j) := by decide

/-- 10_state.md R23: bit `i` of an edge is the word bit `wordBit` names. -/
theorem getLsbD_edgeOf (x : Side) (w : Word) {i : Nat} (h : i < 5) :
    (edgeOf x w).getLsbD i = w.getLsbD (wordBit x i) := by
  cases x with
  | top => rw [wordBit_top h]; exact getLsbD_topOf w i h
  | right => rw [wordBit_right h]; exact getLsbD_rightOf w i h
  | bottom => rw [wordBit_bottom h]; exact getLsbD_bottomOf w i h
  | left => exact getLsbD_leftOf w i h

/-- 10_state.md R24: an edge write keeps every word bit outside its span. -/
theorem getLsbD_withEdge_of_not_inSpan {x : Side} (w : Word) (v : Edge) {j : Nat} (hj : j < 16)
    (h : inSpan x j = false) : (withEdge x w v).getLsbD j = w.getLsbD j := by
  cases x with
  | top =>
    rw [inSpan_top j hj, decide_eq_false_iff_not] at h
    exact (getLsbD_withTop w v j hj).trans (if_neg h)
  | right =>
    rw [inSpan_right j hj, decide_eq_false_iff_not] at h
    exact (getLsbD_withRight w v j hj).trans (if_neg h)
  | bottom =>
    rw [inSpan_bottom j hj, decide_eq_false_iff_not] at h
    exact (getLsbD_withBottom w v j hj).trans (if_neg h)
  | left =>
    rw [inSpan_left j hj, decide_eq_false_iff_not, not_or] at h
    obtain ⟨hzero, hlow⟩ := h
    rw [withEdge, getLsbD_withLeft w v j hj, if_neg hzero, if_neg hlow]

/-- 10_state.md R24: an edge write puts bit `i` of the value in the word bit of bit `i` of the edge. -/
theorem getLsbD_withEdge_wordBit (x : Side) (w : Word) (v : Edge) {i : Nat} (h : i < 5) :
    (withEdge x w v).getLsbD (wordBit x i) = v.getLsbD i := by
  have hj := wordBit_lt x i
  cases x with
  | top => rw [wordBit_top h] at *; rw [withEdge, getLsbD_withTop w v _ hj, if_pos h]
  | right =>
    rw [wordBit_right h] at *
    rw [withEdge, getLsbD_withRight w v _ hj, if_pos (by omega), Nat.add_sub_cancel_left]
  | bottom =>
    rw [wordBit_bottom h] at *
    rw [withEdge, getLsbD_withBottom w v _ hj, if_pos (by omega), Nat.add_sub_cancel_left]
  | left =>
    rw [withEdge, getLsbD_withLeft w v _ hj, wordBit_left]
    interval_cases i <;> rfl

/-- 10_state.md R22: an edge and the clockwise next one always agree on the bit they share. -/
theorem getLsbD_edgeOf_four (x : Side) (w : Word) :
    (edgeOf x w).getLsbD 4 = (edgeOf (clockwise x) w).getLsbD 0 := by
  rw [getLsbD_edgeOf x w (by decide), getLsbD_edgeOf (clockwise x) w (by decide), wordBit_four]

theorem getLsbD_zext16_edge_of_ge (v : Edge) {i : Nat} (h : 5 ≤ i) : (zext16 v).getLsbD i = false := by
  simp [zext16, h]

theorem toNat_zext16_edge_le (v : Edge) : (zext16 v).toNat ≤ 31 := by
  have hv := v.isLt
  simp only [zext16, BitVec.truncate_eq_setWidth, BitVec.toNat_setWidth]
  omega

/-- Settles O29: a getter answers its view of the word, whose bits are where `wordBit` says. -/
theorem edgeBitsSitAtTheirWordBits : Obligations.EdgeBitsSitAtTheirWordBits := by
  refine ⟨fun x s h => ⟨_, (answers_getSide_iff x h _).2 rfl, fun i hi => ?_, fun i hi => ?_⟩,
    rfl, rfl, rfl, rfl, by decide⟩
  · rw [getLsbD_zext16 _ i (by omega), getLsbD_edgeOf x _ hi]
  · exact getLsbD_zext16_edge_of_ge _ hi

/-- Settles O30: what a setter writes and keeps is said bit by bit, and the neighbour reads the shared bit from
the same word bit. -/
theorem settersWriteOnlyTheirSpan : Obligations.SettersWriteOnlyTheirSpan := by
  intro x d s h
  have written (y : Side) {i : Nat} (hi : i < 5) :
      (withEdge y s.word (edgeOperand d)).getLsbD (wordBit y i) = d.getLsbD i :=
    (getLsbD_withEdge_wordBit y _ _ hi).trans (getLsbD_edgeOperand d i hi)
  refine ⟨⟨_, (answers_getSide_iff x h _).2 rfl, toNat_zext16_edge_le _⟩,
    ⟨_, (exec_setSide x d s).trans (updateCommand_of_loaded _ _ s h), fun j hj hout => ?_, fun i hi => ?_⟩,
    ⟨_, seqAnswers_setSide_getSide x (clockwise x) d h, ?_⟩,
    ⟨_, seqAnswers_setSide_getSide (clockwise x) x d h, ?_⟩⟩
  · exact getLsbD_withEdge_of_not_inSpan _ _ hj hout
  · exact written x hi
  · rw [getLsbD_zext16 _ 0 (by decide), getLsbD_edgeOf _ _ (by decide), ← wordBit_four, written x (by decide)]
  · rw [getLsbD_zext16 _ 4 (by decide), getLsbD_edgeOf _ _ (by decide), wordBit_four,
      written (clockwise x) (by decide)]

/-! ### The word and its four edges determine each other -/

theorem zext16_edge_injective {u v : Edge} (h : zext16 u = zext16 v) : u = v := by
  apply BitVec.eq_of_getLsbD_eq
  intro i hi
  rw [← getLsbD_zext16 u i (by omega), h, getLsbD_zext16 v i (by omega)]

/-- 10_state.md R34: words with the same four edges are the same word. -/
theorem eq_of_edgeOf_eq {w w' : Word} (h : ∀ x, edgeOf x w = edgeOf x w') : w = w' := by
  apply BitVec.eq_of_getLsbD_eq
  intro j hj
  obtain ⟨x, i, hi, rfl⟩ := exists_wordBit_eq j hj
  rw [← getLsbD_edgeOf x w (by omega), h x, getLsbD_edgeOf x w' (by omega)]

/-- The word whose edges have the given values, taken from the first four bits of each. -/
def wordOfEdges (e : Side → Edge) : Word :=
  (e .left).extractLsb' 0 4 ++ (e .bottom).extractLsb' 0 4 ++ (e .right).extractLsb' 0 4 ++
    (e .top).extractLsb' 0 4

theorem getLsbD_wordOfEdges (e : Side → Edge) (x : Side) {i : Nat} (h : i < 4) :
    (wordOfEdges e).getLsbD (wordBit x i) = (e x).getLsbD i := by
  have hmod : (12 + i) % 16 = 12 + i := Nat.mod_eq_of_lt (by omega)
  unfold wordOfEdges
  simp only [BitVec.getLsbD_append, BitVec.getLsbD_extractLsb']
  cases x with
  | top => simp [wordBit_top (by omega : i < 5), h]
  | right =>
    have h4 : ¬ 4 + i < 4 := by omega
    simp [wordBit_right (by omega : i < 5), h, h4]
  | bottom =>
    have h4 : ¬ 8 + i < 4 := by omega
    have h8 : ¬ 8 + i - 4 < 4 := by omega
    have hsub : 8 + i - 4 - 4 = i := by omega
    simp [wordBit_bottom (by omega : i < 5), h, h4, h8, hsub]
  | left =>
    have h4 : ¬ 12 + i < 4 := by omega
    have h8 : ¬ 12 + i - 4 < 4 := by omega
    have h12 : ¬ 12 + i - 4 - 4 < 4 := by omega
    have hsub : 12 + i - 4 - 4 - 4 = i := by omega
    simp [wordBit_left, hmod, h, h4, h8, h12, hsub]

/-- 10_state.md R34: edge values that agree on the shared bits are the edges of a word. -/
theorem edgeOf_wordOfEdges {e : Side → Edge} (h : ∀ x, (e x).getLsbD 4 = (e (clockwise x)).getLsbD 0)
    (x : Side) : edgeOf x (wordOfEdges e) = e x := by
  apply BitVec.eq_of_getLsbD_eq
  intro i hi
  rw [getLsbD_edgeOf x _ hi]
  obtain hlt | rfl : i < 4 ∨ i = 4 := by omega
  · exact getLsbD_wordOfEdges e x hlt
  · rw [wordBit_four, getLsbD_wordOfEdges e _ (by decide), h x]

/-- Four edge values, one for each side. -/
def edges (t r b l : Edge) : Side → Edge
  | .top => t
  | .right => r
  | .bottom => b
  | .left => l

/-- Settles O31: the four edges cover the word, and `wordOfEdges` is the word of a tuple that agrees. -/
theorem fourEdgesDetermineTheWord : Obligations.FourEdgesDetermineTheWord := by
  refine ⟨fun s s' h h' hsame => eq_of_edgeOf_eq fun x => ?_, fun t r b l => ⟨?_, ?_⟩⟩
  · obtain ⟨r, hr, hr'⟩ := hsame x
    rw [answers_getSide_iff x h] at hr
    rw [answers_getSide_iff x h'] at hr'
    exact zext16_edge_injective (hr.symm.trans hr')
  · rintro ⟨s, h, ht, hr, hb, hl⟩
    have read {x : Side} {v : Edge} (hx : Answers (getSide x) s (zext16 v)) : v = edgeOf x s.word :=
      zext16_edge_injective ((answers_getSide_iff x h _).1 hx)
    obtain rfl := read (x := .top) ht
    obtain rfl := read (x := .right) hr
    obtain rfl := read (x := .bottom) hb
    obtain rfl := read (x := .left) hl
    exact ⟨getLsbD_edgeOf_four .top _, getLsbD_edgeOf_four .right _, getLsbD_edgeOf_four .bottom _,
      getLsbD_edgeOf_four .left _⟩
  · rintro ⟨htr, hrb, hbl, hlt⟩
    have agree (x : Side) : (edges t r b l x).getLsbD 4 = (edges t r b l (clockwise x)).getLsbD 0 := by
      cases x <;> assumption
    have read (x : Side) : Answers (getSide x) (State.reset.loadWord (wordOfEdges (edges t r b l)))
        (zext16 (edges t r b l x)) := by
      rw [answers_getSide_iff x rfl, State.loadWord_word, edgeOf_wordOfEdges agree x]
    exact ⟨_, rfl, read .top, read .right, read .bottom, read .left⟩

/-! ## What each command may touch (O32) -/

/-- 10_state.md R25: a setter may write exactly the span of its edge. -/
theorem mayWrite_setSide (x : Side) (d : Word) {j : Nat} (hj : j < 16) :
    mayWrite (setSide x d) j = inSpan x j := by
  cases x with
  | top => rw [inSpan_top j hj]; exact decide_eq_decide.2 (by omega)
  | right => rw [inSpan_right j hj]; exact decide_eq_decide.2 (by omega)
  | bottom => rw [inSpan_bottom j hj]; exact decide_eq_decide.2 (by omega)
  | left => rw [inSpan_left j hj]; exact decide_eq_decide.2 (by omega)

theorem wordAfter_setSide (x : Side) (d w : Word) :
    wordAfter (setSide x d) w = withEdge x w (edgeOperand d) := by cases x <;> rfl

/-- 10_state.md R25: a command keeps each word bit that it may not write. -/
theorem getLsbD_wordAfter_of_not_mayWrite {i : Instr} (w : Word) {j : Nat} (hj : j < 16)
    (h : mayWrite i j = false) : (wordAfter i w).getLsbD j = w.getLsbD j := by
  have setter (x : Side) (d : Word) (hx : mayWrite (setSide x d) j = false) :
      (wordAfter (setSide x d) w).getLsbD j = w.getLsbD j := by
    rw [mayWrite_setSide x d hj] at hx
    rw [wordAfter_setSide, getLsbD_withEdge_of_not_inSpan w _ hj hx]
  cases i with
  | setTop d => exact setter .top d h
  | setRight d => exact setter .right d h
  | setBottom d => exact setter .bottom d h
  | setLeft d => exact setter .left d h
  | load | rotateCw | flipV => simp [mayWrite] at h
  | nop | getTop | getRight | getBottom | getLeft | readWord | edgesFit => rfl

/-- The commands with opcode 0, 1 or 13 do not read `WORD`. -/
theorem readsWord_eq_false_of_opcodeOf_mem {i : Instr} (h : opcodeOf i ∈ [0x0#4, 0x1#4, 0xD#4]) :
    readsWord i = false := by
  cases i with
  | nop | load | edgesFit => rfl
  | _ => simp [opcodeOf] at h

/-- Settles O32, from what a command leaves in each field. -/
theorem commandsTouchOnlyWhatTheyMay : Obligations.CommandsTouchOnlyWhatTheyMay := by
  refine ⟨fun i s t ht => ?_, fun s w v => ⟨_, rfl, rfl⟩, fun s v => ⟨_, rfl, rfl⟩,
    fun s a b v => ⟨_, rfl, rfl⟩, fun c s hc => ?_⟩
  · obtain rfl := (exec_next_iff i s t).1 ht
    refine ⟨fun j => getLsbD_wordAfter_of_not_mayWrite s.word, fun hop => ?_, fun hop => ?_, rfl, rfl⟩
    · rw [State.afterInstr_wvalid, (isLoad_eq_false_iff_opcodeOf i).2 hop, Bool.or_false]
    · simp [readsWord_eq_false_of_opcodeOf_mem hop]
  · obtain ⟨r, hr⟩ := exists_decode_reject_of_not_legal hc
    exact ⟨_, runCommand_of_reject hr s, rfl⟩

end Sys2Proof.Machine

/-! ## One event, and the platform's host interface (O10, O12, O48) -/

namespace Sys2Proof.Machine

/-- Settles O10: the step delivers the event it takes, and an accepted word runs its command. -/
theorem stepRunsTheDecodedCommand : Obligations.StepRunsTheDecodedCommand :=
  fun s _ rest _ hin hdec => (step_of_cons hin).trans (runCommand_of_accept hdec (s.withInput rest))

/-- Settles O12: with no event the step is the idle one. -/
theorem noEventLeavesTheBlockWaiting : Obligations.NoEventLeavesTheBlockWaiting :=
  fun _ hin => step_of_nil hin

/-- 20_memory.md R49: a command of the owner goes behind what the block has been given. -/
theorem Platform.issue_of_owner {p : Platform} {k : Nat} {o : Owned} (hk : p.tiles[k]? = some o) (c : Cmd) :
    p.issue o.owner k c =
      .next ⟨p.tiles.set k { o with block := o.block.withInput (o.block.input ++ [.command c]) }⟩ := by
  simp [Platform.issue, hk]

/-- 20_memory.md R49: a command of a host that does not own the block is refused. -/
theorem Platform.issue_of_ne_owner {p : Platform} {h k : Nat} {o : Owned} (hk : p.tiles[k]? = some o)
    (hne : o.owner ≠ h) (c : Cmd) : p.issue h k c = .refused .uncoordinatedHosts := by
  simp [Platform.issue, hk, hne]

/-- Settles O48, branch by branch of the ownership check. -/
theorem onlyTheOwnerIssuesCommands : Obligations.OnlyTheOwnerIssuesCommands := by
  intro p h k c o hk
  split
  · next howner =>
    subst howner
    obtain ⟨hlt, -⟩ := List.getElem?_eq_some_iff.1 hk
    exact ⟨_, Platform.issue_of_owner hk c, List.getElem?_set_self hlt,
      fun k' hne => List.getElem?_set_ne hne.symm⟩
  · next hne => exact Platform.issue_of_ne_owner hk hne c

end Sys2Proof.Machine

/-! ## A run is its commands in order, and its history too (O45, O46) -/

namespace Sys2Proof.Machine

theorem opField_encode (i : Instr) : opField (encode i) = opcodeOf i :=
  (Laws.EncodesLegally.low_fields (dataOf i) (opcodeOf i)).1

theorem rsvField_encode (i : Instr) : rsvField (encode i) = 0#12 :=
  (Laws.EncodesLegally.low_fields (dataOf i) (opcodeOf i)).2

theorem dataField_encode (i : Instr) : dataField (encode i) = dataOf i := by
  apply BitVec.eq_of_getLsbD_eq
  intro j hj
  have hop : ¬ 16 + j < 4 := by omega
  have hrsv : ¬ 16 + j - 4 < 12 := by omega
  have hsub : 16 + j - 4 - 12 = j := by omega
  rw [dataField, encode, BitVec.getLsbD_extractLsb', BitVec.getLsbD_append, BitVec.getLsbD_append,
    if_neg hop, if_neg hrsv, hsub]
  simp [hj]

/-- 30_encoding.md R61: the assembler's two patterns of EDGES_FIT are read back from their fields. -/
theorem fitFields_dataOf_edgesFit (a b : Edge) :
    fitFieldA (dataOf (.edgesFit a b)) = a ∧ fitFieldB (dataOf (.edgesFit a b)) = b := by
  refine ⟨?_, ?_⟩ <;>
  · apply BitVec.eq_of_getLsbD_eq
    intro j hj
    interval_cases j <;> simp [fitFieldA, fitFieldB, dataOf]

/-- 30_encoding.md R60, R63: the decoder reads back the command the encoder wrote. -/
theorem decode_encode (i : Instr) : decode (encode i) = .accept i := by
  rw [decode, if_pos (rsvField_encode i), opField_encode, dataField_encode]
  cases i with
  | edgesFit a b =>
    obtain ⟨ha, hb⟩ := fitFields_dataOf_edgesFit a b
    exact congrArg₂ (fun x y => Decoded.accept (.edgesFit x y)) ha hb
  | _ => rfl

theorem State.withInput_of_input_eq {s : State} {es : List HostEvent} (h : s.input = es) :
    s.withInput es = s := h ▸ s.withInput_self

theorem execSeq_cons (i : Instr) (is : List Instr) (s : State) :
    execSeq (i :: is) s = execSeq is (s.afterInstr i) := by
  rw [execSeq, exec_eq]

/-- Settles O45, by induction on the commands: a step on the first one's encoding is its meaning, and the events
behind it are those of the rest. -/
theorem runIsTheCommandsInOrder : Obligations.RunIsTheCommandsInOrder := by
  intro is
  induction is with
  | nil =>
    intro s hin
    exact congrArg _ (State.withInput_of_input_eq hin).symm
  | cons i is ih =>
    intro s hin
    have hstep : step s = .next ((s.withInput _).afterInstr i) :=
      (step_of_command hin).trans (congrArg _ (State.afterCommand_of_accept (decode_encode i) _))
    rw [List.length_cons, runSteps_succ_of_next hstep, ih _ rfl, execSeq_cons]
    rfl

/-- 20_memory.md R48: every command word, legal or not, is answered. -/
theorem exists_afterCommand_response (s : State) (c : Cmd) : ∃ r, (s.afterCommand c).response = some r := by
  cases h : decode c with
  | accept i => exact ⟨_, by rw [State.afterCommand_of_accept h, State.afterInstr_response]⟩
  | reject e => exact ⟨_, by rw [State.afterCommand_of_reject h, State.raiseIllegal_response]⟩

/-- 20_memory.md R48: the history of a run is that of its first part followed by that of the rest. -/
theorem transcript_add {j : Nat} {s t : State} (h : runSteps j s = .next t) (k : Nat) :
    transcript (j + k) s = transcript j s ++ transcript k t := by
  induction j generalizing s with
  | zero =>
    obtain rfl : s = t := Host.Outcome.next.inj h
    rw [Nat.zero_add]; rfl
  | succ j ih =>
    obtain ⟨u, hu⟩ := exists_step_next s
    rw [runSteps_succ_of_next hu] at h
    rw [Nat.succ_add, transcript_succ_of_next hu, transcript_succ_of_next hu, ih h, List.append_assoc]

/-- A step on a command word adds the pair of the word and its response to the history. -/
theorem transcript_one_of_command {s t : State} {c : Cmd} {es : List HostEvent} {r : Response}
    (hin : s.input = .command c :: es) (hstep : step s = .next t) (hr : t.response = some r) :
    transcript 1 s = [(c, r)] := by
  rw [transcript_succ_of_next hstep, hin]
  simp [observation, HostEvent.command?, hr, transcript]

/-- Settles O46: histories append along a run, and every command word is answered once. -/
theorem historyIsSequential : Obligations.HistoryIsSequential := by
  refine ⟨fun j k s t h => transcript_add h k, fun s c rest hin => ?_⟩
  obtain ⟨r, hr⟩ := exists_afterCommand_response (s.withInput rest) c
  have hstep := step_of_command hin
  exact ⟨_, r, hstep, hr, transcript_one_of_command hin hstep hr⟩

end Sys2Proof.Machine

/-! ## Commands given twice (O33, O34) -/

namespace Sys2Proof.Machine

open Sys2Proof.Certificates

/-- A command that finds the word it left, and answers there as before, changes nothing: `WVALID` stays true once
true, and the first fault mark recorded stays. -/
theorem State.afterInstr_afterInstr {s : State} {i : Instr}
    (hword : wordAfter i (wordAfter i s.word) = wordAfter i s.word)
    (hres : resultOf i (wordAfter i s.word) = resultOf i s.word) :
    (s.afterInstr i).afterInstr i = s.afterInstr i := by
  have hvalid : ((s.wvalid || isLoad i) || isLoad i) = (s.wvalid || isLoad i) := by
    rw [Bool.or_assoc, Bool.or_self]
  have hmark : ((s.afterInstr i).afterInstr i).uninitMark = (s.afterInstr i).uninitMark := by
    rw [State.afterInstr_uninitMark]
    cases hr : readsWord i with
    | false => rfl
    | true => cases hv : s.wvalid <;> simp [hr, hv]
  rw [State.mk.injEq]
  exact ⟨hword, hvalid, hmark, congrArg (fun r => some (Response.mk r .ok)) hres, rfl, rfl⟩

/-- 20_memory.md R44: a getter, READ_WORD, EDGES_FIT and NOP leave the word as it is. -/
theorem wordAfter_eq_self_of_opcodeOf_mem {i : Instr}
    (h : opcodeOf i ∈ [0x2#4, 0x4#4, 0x6#4, 0x8#4, 0xC#4] ∨ opcodeOf i ∈ [0x0#4, 0xD#4]) (w : Word) :
    wordAfter i w = w := by
  cases i with
  | load | setTop | setRight | setBottom | setLeft | rotateCw | flipV => simp [opcodeOf] at h
  | _ => rfl

/-- A command that leaves the word, is no LOAD and does not read an unloaded word changes only the response. -/
theorem State.afterInstr_eq_respond {s : State} {i : Instr} (hword : wordAfter i s.word = s.word)
    (hload : isLoad i = false) (hread : readsWord i = true → s.wvalid = true) :
    s.afterInstr i = s.respond (resultOf i s.word) .ok := by
  have hmark : (s.afterInstr i).uninitMark = s.uninitMark := by
    cases hr : readsWord i with
    | false => simp [hr]
    | true => simp [hread hr]
  rw [State.mk.injEq]
  exact ⟨hword, by simp [hload], hmark, rfl, rfl, rfl⟩

/-- Settles O33: a reading command leaves the word, so the second one finds what the first one found. -/
theorem readingCommandsArePure : Obligations.ReadingCommandsArePure := by
  refine ⟨fun i s h => ?_, fun p q k k' hstep hne => Platform.stepAt_frame hstep hne.symm⟩
  have hword := wordAfter_eq_self_of_opcodeOf_mem (h.imp_left And.left)
  have hload : isLoad i = false := (isLoad_eq_false_iff_opcodeOf i).2 fun hop => by simp [hop] at h
  have hread (hr : readsWord i = true) : s.wvalid = true := by
    obtain ⟨-, hv⟩ | hop := h
    · exact hv
    · have hsub : [0x0#4, 0xD#4] ⊆ [0x0#4, 0x1#4, 0xD#4] := by decide
      simp [readsWord_eq_false_of_opcodeOf_mem (hsub hop)] at hr
  refine ⟨s.afterInstr i, exec_eq i s, ?_, ?_⟩
  · rw [State.afterInstr_eq_respond (hword s.word) hload hread]; rfl
  · rw [exec_eq, State.afterInstr_afterInstr] <;> simp [hword]

/-- Writing an edge twice with one value is writing it once. -/
theorem withEdge_withEdge_self (x : Side) (w : Word) (v : Edge) :
    withEdge x (withEdge x w v) v = withEdge x w v := by
  apply BitVec.eq_of_getLsbD_eq
  intro j hj
  cases hspan : inSpan x j with
  | false => exact getLsbD_withEdge_of_not_inSpan _ v hj hspan
  | true =>
    obtain ⟨i, hi, rfl⟩ : ∃ i < 5, wordBit x i = j := by simpa [inSpan] using hspan
    rw [getLsbD_withEdge_wordBit x _ v hi, getLsbD_withEdge_wordBit x w v hi]

/-- A setter answers the word it leaves (40_edge_accessors.md R82, R84, R86, R88). -/
theorem resultOf_setSide (x : Side) (d w : Word) :
    resultOf (setSide x d) w = withEdge x w (edgeOperand d) := by cases x <;> rfl

theorem getLsbD_rotateWord (w : Word) {j : Nat} (hj : j < 16) :
    (rotateWord w).getLsbD j = w.getLsbD ((j + 12) % 16) := getLsbD_rotl16_four w j hj

/-- 41_transformations.md R114. -/
theorem getLsbD_flipWord (w : Word) {j : Nat} (hj : j < 16) :
    (flipWord w).getLsbD j = w.getLsbD ((26 - j) % 16) := by
  rw [flipWord, getLsbD_rotr16_five _ j hj, getLsbD_rev16 _ _ (Nat.mod_lt _ (by decide))]
  congr 1
  omega

/-- 41_transformations.md R112. -/
theorem rotateWord_four_times (w : Word) : rotateWord (rotateWord (rotateWord (rotateWord w))) = w := by
  apply BitVec.eq_of_getLsbD_eq
  intro j hj
  have hmod (n : Nat) : n % 16 < 16 := Nat.mod_lt n (by decide)
  rw [getLsbD_rotateWord _ hj, getLsbD_rotateWord _ (hmod _), getLsbD_rotateWord _ (hmod _),
    getLsbD_rotateWord _ (hmod _)]
  congr 1
  omega

/-- 41_transformations.md R115. -/
theorem flipWord_flipWord (w : Word) : flipWord (flipWord w) = w := by
  apply BitVec.eq_of_getLsbD_eq
  intro j hj
  rw [getLsbD_flipWord _ hj, getLsbD_flipWord _ (Nat.mod_lt _ (by decide))]
  congr 1
  omega

/-- 20_memory.md R45: the two words of equal bits stay as they are when their bits are permuted. -/
theorem rotateWord_flipWord_eq_self {w : Word} (h : w = 0x0000#16 ∨ w = 0xFFFF#16) :
    rotateWord w = w ∧ flipWord w = w := by
  obtain rfl | rfl := h
  · decide
  · decide

/-- A sequence of commands leaves the word that the commands' effects on the word, composed, give. -/
theorem seqLeaves_iff (is : List Instr) (s : State) (w : Word) :
    SeqLeaves is s w ↔ is.foldl (fun v i => wordAfter i v) s.word = w := by
  induction is generalizing s with
  | nil => simp [SeqLeaves, execSeq]
  | cons i is ih =>
    rw [SeqLeaves, execSeq_cons, List.foldl_cons]
    exact ih (s.afterInstr i)

/-- Settles O34: idempotency from that of the effect on the word, the periods bit by bit; the word 0x0001 shows
that one turn, or one flip, is not two. -/
theorem repeatedCommandsAndFixedPoints : Obligations.RepeatedCommandsAndFixedPoints := by
  refine ⟨fun w s => ⟨_, exec_eq _ s, ?_⟩, fun x d s _ => ⟨_, exec_eq _ s, ?_⟩, fun s _ => ?_,
    fun i hi => ⟨?_, fun s _ hs => ?_⟩⟩
  · rw [exec_eq, State.afterInstr_afterInstr rfl rfl]
  · rw [exec_eq, State.afterInstr_afterInstr] <;>
      simp only [wordAfter_setSide, resultOf_setSide, withEdge_withEdge_self]
  · exact ⟨(seqLeaves_iff _ s _).2 (rotateWord_four_times s.word),
      (seqLeaves_iff _ s _).2 (flipWord_flipWord s.word)⟩
  · refine ⟨State.reset.loadWord 0x0001#16, _, _, rfl, (seqLeaves_iff _ _ _).2 rfl,
      (seqLeaves_iff _ _ _).2 rfl, ?_⟩
    obtain rfl | rfl : i = .rotateCw ∨ i = .flipV := by simpa using hi
    · decide
    · decide
  · obtain ⟨hrot, hflip⟩ := rotateWord_flipWord_eq_self hs
    obtain rfl | rfl : i = .rotateCw ∨ i = .flipV := by simpa using hi
    · exact (seqLeaves_iff _ s _).2 hrot
    · exact (seqLeaves_iff _ s _).2 hflip

end Sys2Proof.Machine

/-! ## The command encoding: fields, rows and the bits an opcode uses (O2 to O5) -/

namespace Sys2Proof

open Sys2Proof.Machine Sys2Proof.Certificates

/-! ### A command word is its three fields (30_encoding.md R60) -/

theorem append_fields (c : Cmd) : dataField c ++ (rsvField c ++ opField c) = c := by
  have hlow : rsvField c ++ opField c = c.extractLsb' 0 (12 + 4) :=
    BitVec.extractLsb'_append_extractLsb'_eq_extractLsb' rfl
  have hall : dataField c ++ c.extractLsb' 0 (12 + 4) = c.extractLsb' 0 (16 + (12 + 4)) :=
    BitVec.extractLsb'_append_extractLsb'_eq_extractLsb' rfl
  rw [hlow, hall]
  exact BitVec.extractLsb'_eq_self

/-- Command words with the same `OP`, `RSV` and `DATA` are the same word. -/
theorem cmd_eq_iff_fields (c c' : Cmd) :
    c = c' ↔ opField c = opField c' ∧ rsvField c = rsvField c' ∧ dataField c = dataField c' := by
  refine ⟨by rintro rfl; exact ⟨rfl, rfl, rfl⟩, fun ⟨hop, hrsv, hdata⟩ => ?_⟩
  rw [← append_fields c, ← append_fields c', hop, hrsv, hdata]

@[simp] theorem opField_and (c c' : Cmd) : opField (c &&& c') = opField c &&& opField c' :=
  BitVec.extractLsb'_and
@[simp] theorem rsvField_and (c c' : Cmd) : rsvField (c &&& c') = rsvField c &&& rsvField c' :=
  BitVec.extractLsb'_and
@[simp] theorem dataField_and (c c' : Cmd) : dataField (c &&& c') = dataField c &&& dataField c' :=
  BitVec.extractLsb'_and
@[simp] theorem opField_xor (c c' : Cmd) : opField (c ^^^ c') = opField c ^^^ opField c' :=
  BitVec.extractLsb'_xor
@[simp] theorem rsvField_xor (c c' : Cmd) : rsvField (c ^^^ c') = rsvField c ^^^ rsvField c' :=
  BitVec.extractLsb'_xor
@[simp] theorem dataField_xor (c c' : Cmd) : dataField (c ^^^ c') = dataField c ^^^ dataField c' :=
  BitVec.extractLsb'_xor

/-- 30_encoding.md R64: the match word of a row holds its opcode and nothing else. -/
theorem fields_zeroExtend (op : OpCode) :
    opField (op.zeroExtend 32) = op ∧ rsvField (op.zeroExtend 32) = 0#12 ∧
      dataField (op.zeroExtend 32) = 0#16 := by
  revert op; decide

/-! ### The words that agree on every bit an opcode uses -/

/-- 30_encoding.md R61: no opcode ignores a bit of `OP` or `RSV`. -/
theorem lowFields_not_ignoredBits (op : OpCode) :
    opField (~~~(ignoredBits op)) = BitVec.allOnes 4 ∧ rsvField (~~~(ignoredBits op)) = BitVec.allOnes 12 := by
  revert op; decide

/-- The `DATA` bits that an opcode does not ignore (30_encoding.md R61). -/
def usedData (op : OpCode) : Word := dataField (~~~(ignoredBits op))

/-- Two command words agree on every bit the opcode uses when `OP` and `RSV` are the same and `DATA` agrees on its
used bits. -/
theorem agree_iff_fields (c c' : Cmd) (op : OpCode) :
    (c ^^^ c') &&& ~~~(ignoredBits op) = 0#32 ↔
      opField c = opField c' ∧ rsvField c = rsvField c' ∧
        (dataField c ^^^ dataField c') &&& usedData op = 0#16 := by
  obtain ⟨hop, hrsv⟩ := lowFields_not_ignoredBits op
  have hzero : opField 0#32 = 0#4 ∧ rsvField 0#32 = 0#12 ∧ dataField 0#32 = 0#16 := by decide
  obtain ⟨hop0, hrsv0, hdata0⟩ := hzero
  rw [cmd_eq_iff_fields, hop0, hrsv0, hdata0]
  simp only [opField_and, rsvField_and, dataField_and, opField_xor, rsvField_xor, dataField_xor, hop, hrsv,
    BitVec.and_allOnes, BitVec.xor_eq_zero_iff, usedData]

/-- Values that agree on a mask have the same field wherever the mask covers it. -/
theorem extractLsb'_eq_of_agree {x y m : Word} (h : (x ^^^ y) &&& m = 0#16) {start len : Nat}
    (hm : m.extractLsb' start len = BitVec.allOnes len) : x.extractLsb' start len = y.extractLsb' start len := by
  have hfield := congrArg (BitVec.extractLsb' start len) h
  rw [BitVec.extractLsb'_and, BitVec.extractLsb'_xor, hm, BitVec.and_allOnes, BitVec.extractLsb'_zero] at hfield
  exact BitVec.xor_eq_zero_iff.1 hfield

/-! ### The rows of the opcode map -/

/-- A command with its operands read anew from `DATA`, by its layout (30_encoding.md R61). -/
def Instr.withData : Instr → Word → Instr
  | .load _, data => .load data
  | .setTop _, data => .setTop data
  | .setRight _, data => .setRight data
  | .setBottom _, data => .setBottom data
  | .setLeft _, data => .setLeft data
  | .edgesFit _ _, data => .edgesFit (fitFieldA data) (fitFieldB data)
  | i, _ => i

@[simp] theorem opcodeOf_withData (i : Instr) (data : Word) : opcodeOf (i.withData data) = opcodeOf i := by
  cases i <;> rfl

/-- 30_encoding.md R63: the row of a command's opcode is that command, with its operands from `DATA`. -/
theorem decodeRow_opcodeOf (i : Instr) (data : Word) :
    decodeRow (opcodeOf i) data = .accept (i.withData data) := by
  cases i <;> rfl

/-- A row of the opcode map holds a command of that row's opcode. -/
theorem opcodeOf_of_decodeRow {op : OpCode} {data : Word} {i : Instr} (h : decodeRow op data = .accept i) :
    opcodeOf i = op := by
  apply BitVec.eq_of_toNat_eq
  unfold decodeRow at h
  -- each row that accepts gives the value of its opcode, and the others close with `cases`
  split at h <;> cases h <;> exact Eq.symm ‹_›

theorem decode_of_rsvField_eq_zero {c : Cmd} (h : rsvField c = 0#12) :
    decode c = decodeRow (opField c) (dataField c) := if_pos h

/-- Everything the decoder accepts: a word with `RSV` zero and the command's opcode, with its operands in `DATA`. -/
theorem decode_eq_accept_iff (c : Cmd) (i : Instr) :
    decode c = .accept i ↔
      rsvField c = 0#12 ∧ opField c = opcodeOf i ∧ i.withData (dataField c) = i := by
  by_cases hrsv : rsvField c = 0#12
  · rw [decode_of_rsvField_eq_zero hrsv, and_iff_right hrsv]
    constructor
    · intro h
      have hop := opcodeOf_of_decodeRow h
      rw [← hop, decodeRow_opcodeOf] at h
      exact ⟨hop.symm, Decoded.accept.inj h⟩
    · rintro ⟨hop, hi⟩
      rw [hop, decodeRow_opcodeOf, hi]
  · simp [decode, hrsv]

/-! ### What a command uses of `DATA` -/

theorem usedData_load : usedData 0x1#4 = 0xFFFF#16 := by decide

theorem usedData_edgesFit : usedData 0xD#4 = 0x1F1F#16 := by decide

theorem usedData_setSide (x : Side) (d : Word) : usedData (opcodeOf (setSide x d)) = 0x001F#16 := by
  have setter : ∀ op ∈ [0x3#4, 0x5#4, 0x7#4, 0x9#4], usedData op = 0x001F#16 := by decide
  exact setter _ (by cases x <;> simp [setSide, opcodeOf])

/-- 30_encoding.md R65: a command does the same with any two values of `DATA` that agree on the bits it uses. -/
theorem exec_withData_congr {i : Instr} {data data' : Word}
    (h : (data ^^^ data') &&& usedData (opcodeOf i) = 0#16) (s : State) :
    exec (i.withData data) s = exec (i.withData data') s := by
  have setter (x : Side) {d : Word} (hx : (data ^^^ data') &&& usedData (opcodeOf (setSide x d)) = 0#16) :
      exec (setSide x data) s = exec (setSide x data') s := by
    have hv : edgeOperand data = edgeOperand data' :=
      extractLsb'_eq_of_agree (usedData_setSide x d ▸ hx) (by decide)
    have hop : opcodeOf (setSide x data) = opcodeOf (setSide x data') := by cases x <;> rfl
    rw [exec_setSide, exec_setSide, hop, hv]
  cases i with
  | load w =>
    have hdata : data.extractLsb' 0 16 = data'.extractLsb' 0 16 :=
      extractLsb'_eq_of_agree (usedData_load ▸ h) (by decide)
    rw [BitVec.extractLsb'_eq_self, BitVec.extractLsb'_eq_self] at hdata
    exact congrArg (fun w => exec (.load w) s) hdata
  | setTop d => exact setter .top h
  | setRight d => exact setter .right h
  | setBottom d => exact setter .bottom h
  | setLeft d => exact setter .left h
  | edgesFit a b =>
    have ha : fitFieldA data = fitFieldA data' := extractLsb'_eq_of_agree (usedData_edgesFit ▸ h) (by decide)
    have hb : fitFieldB data = fitFieldB data' := extractLsb'_eq_of_agree (usedData_edgesFit ▸ h) (by decide)
    exact congrArg₂ (fun x y => exec (.edgesFit x y) s) ha hb
  | _ => rfl

/-- 30_encoding.md R68: the encoder writes back every bit of `DATA` that the command uses. -/
theorem dataOf_withData_agree (i : Instr) (data : Word) :
    (data ^^^ dataOf (i.withData data)) &&& usedData (opcodeOf i) = 0#16 := by
  cases i with
  | load | setTop | setRight | setBottom | setLeft =>
    exact (congrArg (· &&& _) BitVec.xor_self).trans BitVec.zero_and
  | edgesFit a b =>
    refine (congrArg (_ &&& ·) usedData_edgesFit).trans (BitVec.eq_of_getLsbD_eq fun j hj => ?_)
    interval_cases j <;> simp [Instr.withData, dataOf, fitFieldA, fitFieldB]
  | _ => exact BitVec.and_zero

/-! ### The decoder -/

/-- Settles O2: the command a word decodes to is its row's with the operands from `DATA`, so the encoder writes the
same `OP` and `RSV`, and the same `DATA` on the used bits. -/
theorem decodeInvertsEncode : Obligations.DecodeInvertsEncode := by
  refine ⟨decode_encode, fun c i h => ?_⟩
  obtain ⟨hrsv, hop, hi⟩ := (decode_eq_accept_iff c i).1 h
  change (c ^^^ encode i) &&& ~~~(ignoredBits (opField c)) = 0#32
  rw [agree_iff_fields, opField_encode, rsvField_encode, dataField_encode, hop]
  exact ⟨rfl, hrsv, by simpa only [hi] using dataOf_withData_agree i (dataField c)⟩

/-- 30_encoding.md R64: the low half of an accepted word is the match word of its own row and of no other. -/
theorem masked_eq_zeroExtend_iff {c : Cmd} {i : Instr} (h : decode c = .accept i) (op : OpCode) :
    c &&& 0x0000FFFF#32 = op.zeroExtend 32 ↔ op = opcodeOf i := by
  obtain ⟨hrsv, hop, -⟩ := (decode_eq_accept_iff c i).1 h
  have hmask : opField 0x0000FFFF#32 = BitVec.allOnes 4 ∧ dataField 0x0000FFFF#32 = 0#16 := by decide
  obtain ⟨hmop, hmdata⟩ := hmask
  obtain ⟨hzop, hzrsv, hzdata⟩ := fields_zeroExtend op
  rw [cmd_eq_iff_fields, opField_and, rsvField_and, dataField_and, hzop, hzrsv, hzdata, hop, hrsv, hmop, hmdata]
  simp only [BitVec.and_allOnes, BitVec.and_zero, BitVec.zero_and, and_true, eq_comm]

/-- 43_control.md R141: a word that is not legal is answered ILLEGAL and changes nothing else. -/
theorem step_of_not_legal {c : Cmd} (hc : ¬ Legal c) {s : State} {rest : List HostEvent}
    (hin : s.input = .command c :: rest) :
    step s = .next { s with input := rest, response := some ⟨0x0000#16, .illegal⟩ } := by
  obtain ⟨r, hr⟩ := exists_decode_reject_of_not_legal hc
  rw [step_of_command hin, State.afterCommand_of_reject hr]
  rfl

/-- Settles O3: an accepted word has its command's opcode under a zero `RSV`, and any other word is illegal. -/
theorem decoderAcceptsExactlyTheLegalWords : Obligations.DecoderAcceptsExactlyTheLegalWords := by
  refine ⟨exists_decode_accept_iff_legal, fun c i h => ⟨?_, masked_eq_zeroExtend_iff h⟩,
    fun c s rest hc hin => step_of_not_legal hc hin⟩
  obtain ⟨-, hop, -⟩ := (decode_eq_accept_iff c i).1 h
  exact hop.symm

/-- 30_encoding.md R61: a field of `DATA` is a field of the command word, sixteen bits higher. -/
theorem extractLsb'_dataField (c : Cmd) {start len : Nat} (h : start + len ≤ 16) :
    (dataField c).extractLsb' start len = c.extractLsb' (16 + start) len := by
  apply BitVec.eq_of_getLsbD_eq
  intro j hj
  have hlt : start + j < 16 := by omega
  simp only [dataField, BitVec.getLsbD_extractLsb', hj, hlt, decide_true, Bool.true_and, Nat.add_assoc]

/-- Settles O4, row by row: an assigned opcode is that of a command, whose operands the row reads from `DATA`. -/
theorem opcodeMapSelectsTheCommand : Obligations.OpcodeMapSelectsTheCommand := by
  refine fun c => ⟨fun hrsv => if_neg hrsv, fun hrsv => ?_, extractLsb'_dataField c (by decide)⟩
  have row (i : Instr) (hop : opField c = opcodeOf i) : decode c = .accept (i.withData (dataField c)) := by
    rw [decode_of_rsvField_eq_zero hrsv, hop, decodeRow_opcodeOf]
  have reserved (op : OpCode) (hrow : ∀ data, decodeRow op data = .reject .reservedOpcode)
      (hop : opField c = op) : decode c = .reject .reservedOpcode := by
    rw [decode_of_rsvField_eq_zero hrsv, hop, hrow]
  have fit (hop : opField c = 0xD#4) :
      decode c = .accept (.edgesFit (c.extractLsb' 16 5) (c.extractLsb' 24 5)) := by
    rw [← extractLsb'_dataField c (start := 0) (by decide), ← extractLsb'_dataField c (start := 8) (by decide)]
    exact row (.edgesFit 0#5 0#5) hop
  exact ⟨row .nop, row (.load 0#16), row .getTop, row (.setTop 0#16), row .getRight, row (.setRight 0#16),
    row .getBottom, row (.setBottom 0#16), row .getLeft, row (.setLeft 0#16), row .rotateCw, row .flipV,
    row .readWord, fit, reserved 0xE#4 fun _ => rfl, reserved 0xF#4 fun _ => rfl⟩

/-- Settles O5: the two words name one opcode, and their commands do the same with what they use of `DATA`. -/
theorem ignoredDataBitsNeverMatter : Obligations.IgnoredDataBitsNeverMatter := by
  intro c c' hc hagree
  obtain ⟨i, hi⟩ := (exists_decode_accept_iff_legal c).2 hc
  obtain ⟨hrsv, hop, hdata⟩ := (decode_eq_accept_iff c i).1 hi
  obtain ⟨hop', hrsv', hused⟩ := (agree_iff_fields c c' (opField c)).1 hagree
  have hi' : decode c' = .accept (i.withData (dataField c')) := by
    rw [decode_of_rsvField_eq_zero (hrsv' ▸ hrsv), ← hop', hop, decodeRow_opcodeOf]
  refine ⟨(exists_decode_accept_iff_legal c').1 ⟨_, hi'⟩, ?_⟩
  rintro s s' rest hin rfl
  have hsame := exec_withData_congr (hop ▸ hused) (s.withInput rest)
  rw [hdata] at hsame
  calc step s
      = exec i (s.withInput rest) := stepRunsTheDecodedCommand s c rest i hin hi
    _ = exec (i.withData (dataField c')) (s.withInput rest) := hsame
    _ = step { s with input := .command c' :: rest } :=
        (stepRunsTheDecodedCommand (s.withInput (.command c' :: rest)) c' rest _ rfl hi').symm

end Sys2Proof

/-! ## The assembler's words and pseudo-instructions (O8, O9, O1) -/

namespace Sys2Proof

open Sys2Proof.Machine Sys2Proof.Certificates

/-- 30_encoding.md R60: the encoder's word as a number. -/
theorem encode_eq_ofNat (i : Instr) :
    encode i = BitVec.ofNat 32 ((dataOf i).toNat * 2 ^ 16 + (opcodeOf i).toNat) := by
  have hdata := (dataOf i).isLt
  have hop := (opcodeOf i).isLt
  have hhigh : (dataOf i ++ 0#12).toNat = (dataOf i).toNat * 2 ^ 12 := by
    rw [BitVec.toNat_append, Nat.shiftLeft_eq]
    exact Nat.or_zero _
  apply BitVec.eq_of_toNat_eq
  rw [encode, BitVec.toNat_append, hhigh, ← Nat.shiftLeft_add_eq_or_of_lt hop, Nat.shiftLeft_eq,
    BitVec.toNat_ofNat]
  omega

/-- A line of one command assembles to that command's word, where its operands are in range. -/
theorem assemble_of_single {l : AsmLine} {i : Instr} {p : Prop} [Decidable p] {c : Cmd}
    (hline : assembleInstrs l = if l.wellFormed then some [i] else none) (hrange : l.wellFormed = true ↔ p)
    (hword : p → encode i = c) : assemble l = if p then some [c] else none := by
  rw [assemble, hline]
  by_cases h : p
  · rw [if_pos (hrange.2 h), if_pos h, ← hword h]; rfl
  · rw [if_neg (mt hrange.1 h), if_neg h]; rfl

/-- 30_encoding.md R68: a line of layout W or V, whose one operand is the whole of `DATA`. -/
theorem assemble_of_dataOf {l : AsmLine} {i : Instr} {d : Nat}
    (hline : assembleInstrs l = if l.wellFormed then some [i] else none)
    (hrange : l.wellFormed = decide (d ≤ 0xFFFF)) (hdata : dataOf i = BitVec.ofNat 16 d) :
    assemble l =
      if d ≤ 0xFFFF then some [BitVec.ofNat 32 (d * 2 ^ 16 + (opcodeOf i).toNat)] else none := by
  refine assemble_of_single hline (hrange ▸ decide_eq_true_iff) fun hd => ?_
  rw [encode_eq_ofNat, hdata, BitVec.toNat_ofNat, Nat.mod_eq_of_lt (Nat.lt_succ_of_le hd)]

/-- 30_encoding.md R61: in layout AB `b` stands eight bits above `a`. -/
theorem toNat_dataOf_edgesFit (a b : Edge) : (dataOf (.edgesFit a b)).toNat = b.toNat * 2 ^ 8 + a.toNat := by
  have ha := a.isLt
  have hb := b.isLt
  have hshift : b.toNat <<< 8 % 2 ^ 16 = b.toNat <<< 8 := Nat.mod_eq_of_lt (by rw [Nat.shiftLeft_eq]; omega)
  simp only [dataOf, BitVec.toNat_or, BitVec.toNat_shiftLeft, BitVec.truncate_eq_setWidth,
    BitVec.toNat_setWidth]
  rw [Nat.mod_eq_of_lt (show a.toNat < 2 ^ 16 by omega), Nat.mod_eq_of_lt (show b.toNat < 2 ^ 16 by omega), hshift,
    ← Nat.shiftLeft_add_eq_or_of_lt (show a.toNat < 2 ^ 8 by omega), Nat.shiftLeft_eq]

/-- 30_encoding.md R68: the word of layout AB. -/
theorem encode_edgesFit {a b : Nat} (ha : a ≤ 31) (hb : b ≤ 31) :
    encode (.edgesFit (BitVec.ofNat 5 a) (BitVec.ofNat 5 b)) =
      BitVec.ofNat 32 (b * 2 ^ 24 + a * 2 ^ 16 + 0xD) := by
  have hamod : a % 2 ^ 5 = a := Nat.mod_eq_of_lt (by omega)
  have hbmod : b % 2 ^ 5 = b := Nat.mod_eq_of_lt (by omega)
  rw [encode_eq_ofNat, toNat_dataOf_edgesFit, BitVec.toNat_ofNat, BitVec.toNat_ofNat, hamod, hbmod]
  have hsum : (b * 2 ^ 8 + a) * 2 ^ 16 + 0xD = b * 2 ^ 24 + a * 2 ^ 16 + 0xD := by omega
  exact congrArg (BitVec.ofNat 32) hsum

/-- 30_encoding.md R68: a line of layout AB. -/
theorem assemble_edgesFit (a b : Nat) :
    assemble (.edgesFit a b) =
      if a ≤ 31 ∧ b ≤ 31 then some [BitVec.ofNat 32 (b * 2 ^ 24 + a * 2 ^ 16 + 0xD)] else none := by
  refine assemble_of_single rfl ?_ fun ⟨ha, hb⟩ => encode_edgesFit ha hb
  rw [AsmLine.wellFormed, Bool.and_eq_true, decide_eq_true_iff, decide_eq_true_iff]

/-- Settles O8, layout by layout. -/
theorem assemblerEncodesInRangeAndRejectsTheRest : Obligations.AssemblerEncodesInRangeAndRejectsTheRest :=
  ⟨by decide,
    fun w => assemble_of_dataOf (i := .load (.ofNat 16 w)) rfl rfl rfl,
    fun d => assemble_of_dataOf (i := .setTop (.ofNat 16 d)) rfl rfl rfl,
    fun d => assemble_of_dataOf (i := .setRight (.ofNat 16 d)) rfl rfl rfl,
    fun d => assemble_of_dataOf (i := .setBottom (.ofNat 16 d)) rfl rfl rfl,
    fun d => assemble_of_dataOf (i := .setLeft (.ofNat 16 d)) rfl rfl rfl,
    assemble_edgesFit⟩

/-- 30_encoding.md R69: two quarter turns rotate the word by 8. -/
theorem rotateWord_twice (w : Word) : rotateWord (rotateWord w) = (w <<< 8) ||| (w >>> 8) := by
  apply BitVec.eq_of_getLsbD_eq
  intro j hj
  rw [getLsbD_rotateWord _ hj, getLsbD_rotateWord _ (Nat.mod_lt _ (by decide))]
  interval_cases j <;> simp

/-- 30_encoding.md R69: three quarter turns rotate the word right by 4. -/
theorem rotateWord_thrice (w : Word) :
    rotateWord (rotateWord (rotateWord w)) = (w >>> 4) ||| (w <<< 12) := by
  have hmod (n : Nat) : n % 16 < 16 := Nat.mod_lt n (by decide)
  apply BitVec.eq_of_getLsbD_eq
  intro j hj
  rw [getLsbD_rotateWord _ hj, getLsbD_rotateWord _ (hmod _), getLsbD_rotateWord _ (hmod _)]
  interval_cases j <;> simp

/-- A line that stands for one command, where its operands are in range, stands for no other number of them. -/
theorem length_eq_one_of_single {l : AsmLine} {i : Instr} {is : List Instr}
    (hline : assembleInstrs l = if l.wellFormed then some [i] else none) (h : assembleInstrs l = some is) :
    is.length = 1 := by
  obtain ⟨-, his⟩ := Option.ite_none_right_eq_some.1 (hline.symm.trans h)
  rw [← Option.some.inj his]
  rfl

/-- 30_encoding.md R69: no line but ROTATE_180 and ROTATE_CCW stands for other than one command. -/
theorem eq_rotate_of_assembleInstrs {l : AsmLine} {is : List Instr} (h : assembleInstrs l = some is)
    (hlen : is.length ≠ 1) : l = .rotate180 ∨ l = .rotateCcw := by
  cases l with
  | rotate180 => exact .inl rfl
  | rotateCcw => exact .inr rfl
  | _ => exact absurd (length_eq_one_of_single rfl h) hlen

/-- Settles O9: the texts are evaluated, and the effects are those of LOAD and of repeated quarter turns. -/
theorem pseudoInstructionsExpand : Obligations.PseudoInstructionsExpand := by
  refine ⟨by decide, fun s x => ?_, fun s _ => ⟨?_, ?_⟩, fun l is => eq_rotate_of_assembleInstrs⟩
  · refine ⟨_, by rw [execSeq_cons, execSeq_cons, execSeq], ?_⟩
    have hzero : resultOf (getSide x) 0x0000#16 = 0x0000#16 := by cases x <;> decide
    exact congrArg (fun r => some (Response.mk r .ok)) hzero
  · exact (seqLeaves_iff _ s _).2 (rotateWord_twice s.word)
  · exact (seqLeaves_iff _ s _).2 (rotateWord_thrice s.word)

/-- Settles O1: the lines and words are fixed, so the assembler and the decoder are evaluated on them. -/
theorem sampleLinesAssembleToTheirWords : Obligations.SampleLinesAssembleToTheirWords := by
  unfold Obligations.SampleLinesAssembleToTheirWords
  decide

end Sys2Proof

/-! ## LOAD, the getters and the setters (O15 to O23) -/

namespace Sys2Proof

open Sys2Proof.Machine Sys2Proof.Certificates

/-- 30_encoding.md R60: the fields of the low half of a word that holds an opcode and nothing else. -/
theorem lowFields_zeroExtend (op : OpCode) :
    (op.zeroExtend 16).extractLsb' 0 4 = op ∧ (op.zeroExtend 16).extractLsb' 4 12 = 0#12 := by
  revert op; decide

/-- 30_encoding.md R61, R63: a word whose low half is a command's opcode, with `RSV` zero, is that command with its
operands from `DATA`. -/
theorem decode_of_lowHalf {c : Cmd} (i : Instr) (h : c.extractLsb' 0 16 = (opcodeOf i).zeroExtend 16) :
    decode c = .accept (i.withData (dataField c)) := by
  obtain ⟨hop, hrsv⟩ := lowFields_zeroExtend (opcodeOf i)
  rw [← h, BitVec.extractLsb'_extractLsb'_of_le (by decide)] at hop hrsv
  exact (decode_of_rsvField_eq_zero hrsv).trans ((congrArg (decodeRow · _) hop).trans (decodeRow_opcodeOf i _))

/-! ### The views and the updates as shifts and masks -/

/-- A field of the word, zero-extended, is the word shifted right and masked. -/
theorem zext16_extractLsb' (w : Word) (start len : Nat) :
    zext16 (w.extractLsb' start len) = (w >>> start) &&& zext16 (BitVec.allOnes len) := by
  apply BitVec.eq_of_getLsbD_eq
  intro j hj
  simp [getLsbD_zext16 _ j hj, Bool.and_comm]

/-- 30_encoding.md R62: the setter's `v` is the operand's low five bits. -/
theorem zext16_edgeOperand (d : Word) : zext16 (edgeOperand d) = d &&& 0x001F#16 := by
  rw [edgeOperand, zext16_extractLsb', BitVec.ushiftRight_zero]
  rfl

theorem zext16_topOf (w : Word) : zext16 (topOf w) = w &&& 0x001F#16 := zext16_edgeOperand w

theorem zext16_rightOf (w : Word) : zext16 (rightOf w) = (w >>> 4) &&& 0x001F#16 := zext16_extractLsb' w 4 5

theorem zext16_bottomOf (w : Word) : zext16 (bottomOf w) = (w >>> 8) &&& 0x001F#16 := zext16_extractLsb' w 8 5

theorem zext16_leftOf (w : Word) :
    zext16 (leftOf w) = ((w &&& 0x0001#16) <<< 4) ||| ((w >>> 12) &&& 0x000F#16) := by
  apply BitVec.eq_of_getLsbD_eq
  intro j hj
  rw [getLsbD_zext16 _ j hj]
  obtain hlt | hge : j < 5 ∨ 5 ≤ j := by omega
  · rw [getLsbD_leftOf w j hlt]
    interval_cases j <;> simp
  · rw [BitVec.getLsbD_of_ge _ j hge]
    interval_cases j <;> simp

theorem withTop_edgeOperand (w d : Word) :
    withTop w (edgeOperand d) = (w &&& 0xFFE0#16) ||| (d &&& 0x001F#16) := by
  rw [withTop, zext16_edgeOperand]

theorem withRight_edgeOperand (w d : Word) :
    withRight w (edgeOperand d) = (w &&& 0xFE0F#16) ||| ((d &&& 0x001F#16) <<< 4) := by
  rw [withRight, zext16_edgeOperand]

theorem withBottom_edgeOperand (w d : Word) :
    withBottom w (edgeOperand d) = (w &&& 0xE0FF#16) ||| ((d &&& 0x001F#16) <<< 8) := by
  rw [withBottom, zext16_edgeOperand]

theorem withLeft_edgeOperand (w d : Word) :
    withLeft w (edgeOperand d) =
      (w &&& 0x0FFE#16) ||| ((d &&& 0x000F#16) <<< 12) ||| ((d >>> 4) &&& 0x0001#16) := by
  have hlow : (edgeOperand d).extractLsb' 0 4 = d.extractLsb' 0 4 :=
    BitVec.extractLsb'_extractLsb'_of_le (by decide)
  have hhigh : (edgeOperand d).extractLsb' 4 1 = d.extractLsb' 4 1 :=
    BitVec.extractLsb'_extractLsb'_of_le (by decide)
  rw [withLeft, hlow, hhigh, zext16_extractLsb', zext16_extractLsb', BitVec.ushiftRight_zero]
  rfl

/-! ### The commands on a loaded word -/

/-- 40_edge_accessors.md R81, R83, R85, R87: a getter returns its edge and changes nothing else. -/
theorem exec_getSide_of_loaded (x : Side) {s : State} (h : s.wvalid = true) {r : Word}
    (hr : zext16 (edgeOf x s.word) = r) : exec (getSide x) s = .next { s with response := some ⟨r, .ok⟩ } := by
  rw [exec_getSide, readCommand_of_loaded _ _ s h, ← hr]
  rfl

/-- 40_edge_accessors.md R82, R84, R86, R88: a setter replaces its edge, returns the new word and changes nothing
else. -/
theorem exec_setSide_of_loaded (x : Side) (d : Word) {s : State} (h : s.wvalid = true) {w : Word}
    (hw : withEdge x s.word (edgeOperand d) = w) :
    exec (setSide x d) s = .next { s with word := w, response := some ⟨w, .ok⟩ } := by
  rw [exec_setSide, updateCommand_of_loaded _ _ s h, ← hw]
  rfl

theorem resultOf_getSide (x : Side) (w : Word) : resultOf (getSide x) w = zext16 (edgeOf x w) := by
  cases x <;> rfl

/-- A LOAD and then a getter: the getter answers its edge of the word loaded, whatever the state before. -/
theorem seqAnswers_load_getSide (w : Word) (x : Side) (s : State) :
    SeqAnswers [.load w, getSide x] s (zext16 (edgeOf x w)) := by
  refine ⟨_, by rw [execSeq_cons, execSeq_cons, execSeq], ?_⟩
  rw [State.afterInstr_response, resultOf_getSide]
  rfl

/-- 40_edge_accessors.md R80: the two corner words, seen through the four edges. -/
theorem edgeOf_corner_words (x : Side) :
    zext16 (edgeOf x 0x0000#16) = 0x0000#16 ∧ zext16 (edgeOf x 0xFFFF#16) = 0x001F#16 := by
  cases x <;> decide

/-- Settles O15: LOAD is its own whole next state, and the getters then see the word loaded. -/
theorem loadConstructsTheTile : Obligations.LoadConstructsTheTile := by
  refine ⟨fun _ => decode_of_lowHalf (.load 0#16), fun _ _ => rfl,
    fun w s hm => (strict_next_iff _ _).2 ⟨rfl, hm⟩, fun s x => ?_⟩
  obtain ⟨hzeros, hones⟩ := edgeOf_corner_words x
  exact ⟨by simpa only [hzeros] using seqAnswers_load_getSide 0x0000#16 x s,
    by simpa only [hones] using seqAnswers_load_getSide 0xFFFF#16 x s⟩

/-- Settles O16. -/
theorem getTopReturnsTheTopEdge : Obligations.GetTopReturnsTheTopEdge :=
  ⟨fun _ => decode_of_lowHalf .getTop,
    fun s h => exec_getSide_of_loaded .top h (zext16_topOf s.word),
    fun _ => execStrict_of_unloaded rfl⟩

/-- Settles O17. -/
theorem setTopWritesTheTopEdge : Obligations.SetTopWritesTheTopEdge :=
  ⟨fun _ => decode_of_lowHalf (.setTop 0#16),
    fun d s h => exec_setSide_of_loaded .top d h (withTop_edgeOperand s.word d),
    fun d _ => execStrict_of_unloaded (i := .setTop d) rfl⟩

/-- Settles O18. -/
theorem getRightReturnsTheRightEdge : Obligations.GetRightReturnsTheRightEdge :=
  ⟨fun _ => decode_of_lowHalf .getRight,
    fun s h => exec_getSide_of_loaded .right h (zext16_rightOf s.word),
    fun _ => execStrict_of_unloaded rfl⟩

/-- Settles O19. -/
theorem setRightWritesTheRightEdge : Obligations.SetRightWritesTheRightEdge :=
  ⟨fun _ => decode_of_lowHalf (.setRight 0#16),
    fun d s h => exec_setSide_of_loaded .right d h (withRight_edgeOperand s.word d),
    fun d _ => execStrict_of_unloaded (i := .setRight d) rfl⟩

/-- Settles O20. -/
theorem getBottomReturnsTheBottomEdge : Obligations.GetBottomReturnsTheBottomEdge :=
  ⟨fun _ => decode_of_lowHalf .getBottom,
    fun s h => exec_getSide_of_loaded .bottom h (zext16_bottomOf s.word),
    fun _ => execStrict_of_unloaded rfl⟩

/-- Settles O21. -/
theorem setBottomWritesTheBottomEdge : Obligations.SetBottomWritesTheBottomEdge :=
  ⟨fun _ => decode_of_lowHalf (.setBottom 0#16),
    fun d s h => exec_setSide_of_loaded .bottom d h (withBottom_edgeOperand s.word d),
    fun d _ => execStrict_of_unloaded (i := .setBottom d) rfl⟩

/-- Settles O22. -/
theorem getLeftReturnsTheLeftEdge : Obligations.GetLeftReturnsTheLeftEdge :=
  ⟨fun _ => decode_of_lowHalf .getLeft,
    fun s h => exec_getSide_of_loaded .left h (zext16_leftOf s.word),
    fun _ => execStrict_of_unloaded rfl⟩

/-- Settles O23. -/
theorem setLeftWritesTheLeftEdge : Obligations.SetLeftWritesTheLeftEdge :=
  ⟨fun _ => decode_of_lowHalf (.setLeft 0#16),
    fun d s h => exec_setSide_of_loaded .left d h (withLeft_edgeOperand s.word d),
    fun d _ => execStrict_of_unloaded (i := .setLeft d) rfl⟩

end Sys2Proof

/-! ## Two setters, and a setter with its getter (O35, O38) -/

namespace Sys2Proof

open Sys2Proof.Machine Sys2Proof.Certificates

theorem wordAfter_getSide (x : Side) (w : Word) : wordAfter (getSide x) w = w := by cases x <;> rfl

/-- A setter puts each of its operand's low five bits in the edge's word bit. -/
theorem getLsbD_withEdge_edgeOperand (x : Side) (w d : Word) {i : Nat} (h : i < 5) :
    (withEdge x w (edgeOperand d)).getLsbD (wordBit x i) = d.getLsbD i :=
  (getLsbD_withEdge_wordBit x w _ h).trans (getLsbD_edgeOperand d i h)

theorem inSpan_eq_true_iff (x : Side) (j : Nat) : inSpan x j = true ↔ ∃ i < 5, wordBit x i = j := by
  simp [inSpan]

/-! ### Set, then get -/

/-- 40_edge_accessors.md R90: an edge reads back the value written to it. -/
theorem edgeOf_withEdge_self (x : Side) (w : Word) (v : Edge) : edgeOf x (withEdge x w v) = v := by
  apply BitVec.eq_of_getLsbD_eq
  intro i hi
  rw [getLsbD_edgeOf x _ hi, getLsbD_withEdge_wordBit x w v hi]

/-- 40_edge_accessors.md R90: the kept bits are those outside the edge's span. -/
theorem getLsbD_keptBits (x : Side) : ∀ j < 16, (keptBits x).getLsbD j = !inSpan x j := by
  cases x <;> decide

/-- 40_edge_accessors.md R90: an edge write changes no kept bit. -/
theorem withEdge_and_keptBits (x : Side) (w : Word) (v : Edge) :
    withEdge x w v &&& keptBits x = w &&& keptBits x := by
  apply BitVec.eq_of_getLsbD_eq
  intro j hj
  rw [BitVec.getLsbD_and, BitVec.getLsbD_and, getLsbD_keptBits x j hj]
  cases hspan : inSpan x j with
  | true => simp
  | false => rw [getLsbD_withEdge_of_not_inSpan w v hj hspan]

/-- A setter and then its getter: the operand's low five bits are answered, and the word is the setter's. -/
theorem execSeq_setSide_getSide (x : Side) (d : Word) (s : State) :
    ∃ t, execSeq [setSide x d, getSide x] s = .next t ∧ t.response = some ⟨d &&& 0x001F#16, .ok⟩ ∧
      t.word = withEdge x s.word (edgeOperand d) := by
  refine ⟨_, by rw [execSeq_cons, execSeq_cons, execSeq], ?_, ?_⟩
  · simp only [State.afterInstr_response, State.afterInstr_word, wordAfter_setSide, resultOf_getSide,
      edgeOf_withEdge_self, zext16_edgeOperand]
  · simp only [State.afterInstr_word, wordAfter_setSide, wordAfter_getSide]

/-- Settles O38: the edge reads back, the kept bits stay, and Left's bits sit at word bits 12 to 15 and 0. -/
theorem setThenGetRoundTrips : Obligations.SetThenGetRoundTrips := by
  refine ⟨fun x d s _ => ?_, fun d s _ => ?_⟩
  · obtain ⟨t, hrun, hres, hword⟩ := execSeq_setSide_getSide x d s
    exact ⟨t, hrun, hres, hword ▸ withEdge_and_keptBits x s.word _⟩
  · obtain ⟨t, hrun, -, hword⟩ := execSeq_setSide_getSide .left d s
    have bit {i : Nat} (hi : i < 5) : t.word.getLsbD (wordBit .left i) = d.getLsbD i :=
      hword ▸ getLsbD_withEdge_edgeOperand .left s.word d hi
    refine ⟨t, hrun, bit (i := 4) (by decide), BitVec.eq_of_getLsbD_eq fun i hi => ?_⟩
    have hbit := bit (i := i) (by omega)
    rw [wordBit_left, Nat.mod_eq_of_lt (by omega)] at hbit
    simp only [BitVec.getLsbD_extractLsb', hi, hbit, Nat.zero_add]

/-! ### Two setters -/

/-- 40_edge_accessors.md R89: opposite edges share no word bit. -/
theorem wordBit_ne_wordBit_opposite (x : Side) :
    ∀ i < 5, ∀ k < 5, wordBit x i ≠ wordBit (clockwise (clockwise x)) k := by
  cases x <;> decide

/-- 40_edge_accessors.md R89: the one word bit that adjacent edges share. -/
theorem wordBit_eq_wordBit_clockwise_iff (x : Side) :
    ∀ i < 5, ∀ k < 5, wordBit x i = wordBit (clockwise x) k ↔ i = 4 ∧ k = 0 := by
  cases x <;> decide

/-- 40_edge_accessors.md R89: two edge writes commute exactly when their values agree wherever both write. -/
theorem withEdge_comm_iff (x y : Side) (w : Word) (v u : Edge) :
    withEdge y (withEdge x w v) u = withEdge x (withEdge y w u) v ↔
      ∀ i < 5, ∀ k < 5, wordBit x i = wordBit y k → v.getLsbD i = u.getLsbD k := by
  constructor
  · intro h i hi k hk hik
    rw [← getLsbD_withEdge_wordBit x (withEdge y w u) v hi, ← h, hik, getLsbD_withEdge_wordBit y _ u hk]
  · intro h
    apply BitVec.eq_of_getLsbD_eq
    intro j hj
    cases hx : inSpan x j with
    | false =>
      rw [getLsbD_withEdge_of_not_inSpan _ v hj hx]
      cases hy : inSpan y j with
      | false => simp only [getLsbD_withEdge_of_not_inSpan _ _ hj hx, getLsbD_withEdge_of_not_inSpan _ _ hj hy]
      | true =>
        obtain ⟨k, hk, rfl⟩ := (inSpan_eq_true_iff y j).1 hy
        simp only [getLsbD_withEdge_wordBit y _ u hk]
    | true =>
      obtain ⟨i, hi, rfl⟩ := (inSpan_eq_true_iff x j).1 hx
      rw [getLsbD_withEdge_wordBit x _ v hi]
      cases hy : inSpan y (wordBit x i) with
      | false => rw [getLsbD_withEdge_of_not_inSpan _ u hj hy, getLsbD_withEdge_wordBit x w v hi]
      | true =>
        obtain ⟨k, hk, hik⟩ := (inSpan_eq_true_iff y _).1 hy
        rw [← hik, getLsbD_withEdge_wordBit y _ u hk, h i hi k hk hik.symm]

/-- The word two setters leave is the later edge write on top of the earlier one. -/
theorem seqLeaves_setSide_setSide_iff (x y : Side) (v u : Word) (s : State) (w : Word) :
    SeqLeaves [setSide x v, setSide y u] s w ↔
      withEdge y (withEdge x s.word (edgeOperand v)) (edgeOperand u) = w := by
  simp only [seqLeaves_iff, List.foldl_cons, List.foldl_nil, wordAfter_setSide]

/-- 40_edge_accessors.md R89: the two orders give one word exactly when the operands agree wherever both edges
hold the same word bit. -/
theorem seqLeaves_setters_comm_iff (x y : Side) (v u : Word) (s : State) :
    (∃ w, SeqLeaves [setSide x v, setSide y u] s w ∧ SeqLeaves [setSide y u, setSide x v] s w) ↔
      ∀ i < 5, ∀ k < 5, wordBit x i = wordBit y k → v.getLsbD i = u.getLsbD k := by
  simp only [seqLeaves_setSide_setSide_iff, exists_eq_left']
  rw [eq_comm, withEdge_comm_iff]
  refine forall₄_congr fun i hi k hk => ?_
  rw [getLsbD_edgeOperand v i hi, getLsbD_edgeOperand u k hk]

/-- 40_edge_accessors.md R89 (a): what each word bit holds after two setters. -/
theorem getLsbD_two_setters {x y : Side} {w v u t : Word}
    (ht : t = withEdge y (withEdge x w (edgeOperand v)) (edgeOperand u)) :
    (∀ i < 5, t.getLsbD (wordBit y i) = u.getLsbD i) ∧
    (∀ i < 5, inSpan y (wordBit x i) = false → t.getLsbD (wordBit x i) = v.getLsbD i) ∧
    (∀ j < 16, inSpan x j = false → inSpan y j = false → t.getLsbD j = w.getLsbD j) := by
  subst ht
  refine ⟨fun i hi => getLsbD_withEdge_edgeOperand y _ u hi, fun i hi hout => ?_, fun j hj hx hy => ?_⟩
  · rw [getLsbD_withEdge_of_not_inSpan _ _ (wordBit_lt x i) hout, getLsbD_withEdge_edgeOperand x w v hi]
  · rw [getLsbD_withEdge_of_not_inSpan _ _ hj hy, getLsbD_withEdge_of_not_inSpan _ _ hj hx]

/-- 40_edge_accessors.md R89: opposite spans are disjoint. -/
theorem not_inSpan_opposite (x : Side) (j : Nat) :
    ¬ (inSpan x j = true ∧ inSpan (clockwise (clockwise x)) j = true) := by
  rw [inSpan_eq_true_iff, inSpan_eq_true_iff]
  rintro ⟨⟨i, hi, rfl⟩, k, hk, hik⟩
  exact wordBit_ne_wordBit_opposite x i hi k hk hik.symm

/-- 40_edge_accessors.md R89: adjacent spans meet in one word bit. -/
theorem inSpan_clockwise_iff (x : Side) (j : Nat) :
    (inSpan x j = true ∧ inSpan (clockwise x) j = true) ↔ (j = wordBit x 4 ∧ j = wordBit (clockwise x) 0) := by
  rw [inSpan_eq_true_iff, inSpan_eq_true_iff]
  constructor
  · rintro ⟨⟨i, hi, rfl⟩, k, hk, hik⟩
    obtain ⟨rfl, rfl⟩ := (wordBit_eq_wordBit_clockwise_iff x i hi k hk).1 hik.symm
    exact ⟨rfl, hik.symm⟩
  · rintro ⟨hx, hy⟩
    exact ⟨⟨4, by decide, hx.symm⟩, 0, by decide, hy.symm⟩

/-- Settles O35: the bits after two setters, and the orders compared where both spans meet, which for opposite
edges is nowhere and for adjacent ones the shared bit. -/
theorem laterSetterDecidesTheSharedBit : Obligations.LaterSetterDecidesTheSharedBit := by
  refine ⟨fun x y v u s _ _ => ?_, fun x v u s _ => ?_,
    fun x j _ => ⟨not_inSpan_opposite x j, inSpan_clockwise_iff x j⟩, rfl, rfl, rfl, rfl, fun x v u s _ => ?_⟩
  · obtain ⟨t, hrun, hword⟩ := (seqLeaves_setSide_setSide_iff x y v u s _).2 rfl
    exact ⟨t, hrun, getLsbD_two_setters hword⟩
  · rw [seqLeaves_setters_comm_iff]
    exact fun i hi k hk hik => absurd hik (wordBit_ne_wordBit_opposite x i hi k hk)
  · rw [seqLeaves_setters_comm_iff]
    refine ⟨fun h => h 4 (by decide) 0 (by decide) (wordBit_four x), fun h i hi k hk hik => ?_⟩
    obtain ⟨rfl, rfl⟩ := (wordBit_eq_wordBit_clockwise_iff x i hi k hk).1 hik
    exact h

end Sys2Proof

/-! ## ROTATE_CW, FLIP_V, READ_WORD and the textual dump (O24 to O26, O39 to O43) -/

namespace Sys2Proof

open Sys2Proof.Machine Sys2Proof.Certificates

/-- On a loaded word a command changes nothing but the word and the response. -/
theorem afterInstr_of_loaded (i : Instr) {s : State} (h : s.wvalid = true) :
    s.afterInstr i = { s with word := wordAfter i s.word, response := some ⟨resultOf i s.word, .ok⟩ } := by
  rw [State.mk.injEq]
  exact ⟨rfl, by simp [h], by simp [h], rfl, rfl, rfl⟩

theorem exec_of_loaded {i : Instr} {s : State} (h : s.wvalid = true) {w r : Word}
    (hw : wordAfter i s.word = w) (hr : resultOf i s.word = r) :
    exec i s = .next { s with word := w, response := some ⟨r, .ok⟩ } := by
  rw [exec_eq, afterInstr_of_loaded i h, hw, hr]

/-- A command and then a getter: the getter answers its edge of the word the command has left. -/
theorem seqAnswers_getSide_iff (i : Instr) (x : Side) (s : State) (r : Word) :
    SeqAnswers [i, getSide x] s r ↔ zext16 (edgeOf x (wordAfter i s.word)) = r := by
  rw [SeqAnswers, execSeq_cons, execSeq_cons, execSeq]
  simp [resultOf_getSide]

/-! ### ROTATE_CW -/

/-- Settles O24. -/
theorem rotateCwRotatesLeftByFour : Obligations.RotateCwRotatesLeftByFour :=
  ⟨fun _ => decode_of_lowHalf .rotateCw, fun _ h => exec_of_loaded h rfl rfl,
    fun _ => execStrict_of_unloaded rfl⟩

/-- The first bits of the edges stand four apart, so a rotation by 4 carries each edge's bits to the next edge's. -/
theorem wordBit_clockwise (x : Side) (i : Nat) : (wordBit (clockwise x) i + 12) % 16 = wordBit x i := by
  cases x <;> simp only [wordBit, clockwise, firstBit] <;> omega

/-- 41_transformations.md R111: a quarter-turn moves each edge to the clockwise next one. -/
theorem edgeOf_clockwise_rotateWord (x : Side) (w : Word) :
    edgeOf (clockwise x) (rotateWord w) = edgeOf x w := by
  apply BitVec.eq_of_getLsbD_eq
  intro i hi
  rw [getLsbD_edgeOf _ _ hi, getLsbD_rotateWord _ (wordBit_lt _ i), wordBit_clockwise, getLsbD_edgeOf x w hi]

/-- Settles O39: the edges move as `edgeOf_clockwise_rotateWord` says, and the example is evaluated. -/
theorem rotateMovesEachEdgeClockwise : Obligations.RotateMovesEachEdgeClockwise := by
  refine ⟨fun x s h => ⟨_, (answers_getSide_iff x h _).2 rfl, ?_⟩, fun s _ hs => ?_⟩
  · rw [seqAnswers_getSide_iff]
    exact congrArg zext16 (edgeOf_clockwise_rotateWord x s.word)
  · rw [seqLeaves_iff, hs]
    decide

/-- 41_transformations.md R112: three more quarter-turns undo one. -/
theorem rotateWord_bijective : Function.Bijective rotateWord :=
  Function.bijective_iff_has_inverse.2
    ⟨fun w => rotateWord (rotateWord (rotateWord w)), rotateWord_four_times, rotateWord_four_times⟩

/-- Settles O40, from the same facts about `rotateWord`. -/
theorem rotateIsACycleOfFour : Obligations.RotateIsACycleOfFour := by
  refine ⟨fun s _ => ⟨?_, ?_⟩, fun s s' w _ _ hw hw' => ?_, fun w => ?_⟩
  · exact (seqLeaves_iff _ s _).2 (rotateWord_four_times s.word)
  · exact (seqLeaves_iff _ s _).2 (rotateWord_thrice s.word)
  · rw [seqLeaves_iff] at hw hw'
    exact rotateWord_bijective.injective (hw.trans hw'.symm)
  · obtain ⟨v, rfl⟩ := rotateWord_bijective.surjective w
    exact ⟨State.reset.loadWord v, rfl, (seqLeaves_iff _ _ _).2 rfl⟩

/-! ### FLIP_V -/

/-- 41_transformations.md R113: FLIP_V's formula, from any word `r` whose bits are those of the word reversed. -/
theorem flipWord_eq_of_reversed {w r : Word} (hr : ∀ i, i < 16 → r.getLsbD i = w.getLsbD (15 - i)) :
    flipWord w = (r >>> 5) ||| (r <<< 11) := by
  obtain rfl : r = rev16 w :=
    BitVec.eq_of_getLsbD_eq fun i hi => (hr i hi).trans (getLsbD_rev16 w i hi).symm
  exact BitVec.or_comm _ _

/-- 41_transformations.md R113: the four fixed points. -/
theorem flipWord_eq_self_of_mem {w : Word} (h : w ∈ [0x0000#16, 0xFFFF#16, 0x0020#16, 0x2000#16]) :
    flipWord w = w := by
  simp only [List.mem_cons, List.not_mem_nil, or_false] at h
  obtain rfl | rfl | rfl | rfl := h <;> decide

/-- Settles O25. -/
theorem flipVReversesThenRotatesRightByFive : Obligations.FlipVReversesThenRotatesRightByFive := by
  refine ⟨fun _ => decode_of_lowHalf .flipV, fun s r h hr => ?_, fun _ => execStrict_of_unloaded rfl,
    fun s _ => ⟨fun hs => ?_, fun hs => ?_⟩⟩
  · have hflip := flipWord_eq_of_reversed hr
    exact exec_of_loaded h hflip hflip
  · exact (seqLeaves_iff _ s _).2 (flipWord_eq_self_of_mem hs)
  · rw [seqLeaves_iff, hs]
    decide

/-- Settles O41: the bits move as `getLsbD_flipWord` says, and the example is evaluated. -/
theorem flipPermutesTheBits : Obligations.FlipPermutesTheBits := by
  refine ⟨fun s _ => ⟨_, (seqLeaves_iff _ s _).2 rfl, fun j hj => getLsbD_flipWord s.word hj⟩, fun s _ hs => ?_⟩
  have reads (x : Side) {r : Word} (hr : zext16 (edgeOf x (flipWord 0x001F#16)) = r) :
      SeqAnswers [.flipV, getSide x] s r := (seqAnswers_getSide_iff .flipV x s r).2 (hs ▸ hr)
  have hflip : flipWord 0x001F#16 = 0x07C0#16 := by decide
  exact ⟨(seqLeaves_iff _ s _).2 (hs ▸ hflip), reads .top (by decide), reads .right (by decide),
    reads .bottom (by decide), reads .left (by decide)⟩

/-- Settles O42: each FLIP_V is its own next state, and the second takes the word back. -/
theorem flipTwiceRestoresTheWord : Obligations.FlipTwiceRestoresTheWord := by
  intro s h
  rw [execSeq_cons, execSeq_cons, execSeq, afterInstr_of_loaded .flipV h, afterInstr_of_loaded .flipV (by exact h)]
  exact congrArg (fun w => Host.Outcome.next { s with word := w, response := some ⟨w, .ok⟩ })
    (flipWord_flipWord s.word)

/-! ### READ_WORD and the dump -/

/-- Settles O26. -/
theorem readWordReturnsTheWord : Obligations.ReadWordReturnsTheWord :=
  ⟨fun _ => decode_of_lowHalf .readWord, fun _ h => exec_of_loaded h rfl rfl,
    fun _ => execStrict_of_unloaded rfl⟩

theorem length_render (w : Word) : (render w).length = 16 := by simp [render]

/-- 41_transformations.md R117: the characters of the dump, the most significant bit first. -/
theorem getElem?_render (w : Word) {k : Nat} (hk : k < 16) :
    (render w)[k]? = some (if w.getLsbD (15 - k) then '1' else '0') := by
  rw [render, List.getElem?_map, List.getElem?_range hk, Option.map_some]

/-- Settles O43: the result is READ_WORD's, and the three dumps are evaluated. -/
theorem dumpRendersTheWord : Obligations.DumpRendersTheWord := by
  refine ⟨fun s _ => ⟨s.word, ⟨_, exec_eq _ s, rfl⟩, length_render s.word, fun k => getElem?_render s.word⟩, ?_⟩
  decide

end Sys2Proof

/-! ## EDGES_FIT (O27, O44) -/

namespace Sys2Proof

open Sys2Proof.Machine Sys2Proof.Certificates

theorem fits_eq_true_iff (a b : Edge) : fits a b = true ↔ a ^^^ b = 0b11111#5 := beq_iff_eq

/-- A command completes with the one result that `resultOf` names. -/
theorem answers_iff (i : Instr) (s : State) (r : Word) : Answers i s r ↔ resultOf i s.word = r := by
  simp [Answers, exec_eq]

theorem boolRes_eq_one_iff (b : Bool) : boolRes b = 0x0001#16 ↔ b = true := by
  cases b <;> decide

/-- 42_complementarity.md R130: a word whose low half is 0x000D is EDGES_FIT of its two fields. -/
theorem decode_edgesFit_of_lowHalf {c : Cmd} (h : c.extractLsb' 0 16 = 0x000D#16) :
    decode c = .accept (.edgesFit (c.extractLsb' 16 5) (c.extractLsb' 24 5)) := by
  rw [← extractLsb'_dataField c (start := 0) (by decide), ← extractLsb'_dataField c (start := 8) (by decide)]
  exact decode_of_lowHalf (.edgesFit 0#5 0#5) h

theorem exec_edgesFit (a b : Edge) (s : State) :
    exec (.edgesFit a b) s = .next { s with response := some ⟨boolRes (fits a b), .ok⟩ } := rfl

/-- Settles O27: the next state keeps the mark of the state, so with none there the strict view goes on. -/
theorem edgesFitTestsComplements : Obligations.EdgesFitTestsComplements := by
  refine ⟨fun _ => decode_edgesFit_of_lowHalf, fun a b s => ?_, fun a b s hm => ?_⟩
  · simp only [exec_edgesFit, boolRes, fits_eq_true_iff]
  · rw [execStrict, exec_edgesFit]
    exact (strict_next_iff _ _).2 ⟨rfl, hm⟩

/-- EDGES_FIT answers without looking at the state, so one state stands for all. -/
theorem fit_iff_xor_eq (a b : Edge) : Fit a b ↔ a ^^^ b = 0b11111#5 := by
  have answer (s : State) : Answers (.edgesFit a b) s 0x0001#16 ↔ a ^^^ b = 0b11111#5 := by
    rw [answers_iff, resultOf, boolRes_eq_one_iff, fits_eq_true_iff]
  exact ⟨fun h => (answer .reset).1 (h _), fun h s => (answer s).2 h⟩

/-- 42_complementarity.md R131 (2): the one pattern that fits `a` is its complement. -/
theorem fit_iff_eq_xor (a b : Edge) : Fit a b ↔ b = a ^^^ 0x1F#5 :=
  (fit_iff_xor_eq a b).trans (xor_eq_iff_right_eq a b _)

/-- Each edge pattern with its complement. -/
def fitPairs : List (Edge × Edge) :=
  (List.finRange 32).map fun k => (BitVec.ofFin k, BitVec.ofFin k ^^^ 0x1F#5)

theorem nodup_fitPairs : fitPairs.Nodup :=
  (List.nodup_finRange 32).map fun _ _ h => BitVec.ofFin.inj (Prod.ext_iff.1 h).1

theorem length_fitPairs : fitPairs.length = 32 := by simp [fitPairs]

theorem mem_fitPairs_iff (p : Edge × Edge) : p ∈ fitPairs ↔ Fit p.1 p.2 := by
  obtain ⟨a, b⟩ := p
  simp only [fit_iff_eq_xor, fitPairs, List.mem_map, List.mem_finRange, true_and, Prod.mk.injEq]
  constructor
  · rintro ⟨k, rfl, rfl⟩
    rfl
  · rintro rfl
    exact ⟨a.toFin, rfl, rfl⟩

theorem fit_comm (a b : Edge) : Fit a b ↔ Fit b a := by
  rw [fit_iff_xor_eq, fit_iff_xor_eq, BitVec.xor_comm]

theorem not_fit_self (a : Edge) : ¬ Fit a a := by
  rw [fit_iff_xor_eq, BitVec.xor_self]
  decide

/-- 42_complementarity.md R131 (4): both outer patterns are the complement of the middle one. -/
theorem eq_of_fit_of_fit {a b c : Edge} (hab : Fit a b) (hbc : Fit b c) : a = c :=
  ((fit_iff_eq_xor b a).1 ((fit_comm a b).1 hab)).trans ((fit_iff_eq_xor b c).1 hbc).symm

/-- Settles O44: every law follows from a fit being the complement. -/
theorem fitIsExactComplementarity : Obligations.FitIsExactComplementarity :=
  ⟨fit_comm, fit_iff_eq_xor,
    ⟨fitPairs, nodup_fitPairs, length_fitPairs, mem_fitPairs_iff⟩, not_fit_self, fun _ _ _ => eq_of_fit_of_fit⟩

end Sys2Proof

/-! ## Illegal words and NOP (O6, O28) -/

namespace Sys2Proof.Machine

open Sys2Proof.Certificates

/-- 43_control.md R155: `RSV` not zero and the opcodes 0xE and 0xF each make a word illegal. -/
theorem not_legal_of_rsv_or_op {c : Cmd}
    (h : c.extractLsb' 4 12 ≠ 0#12 ∨ c.extractLsb' 0 4 = 0xE#4 ∨ c.extractLsb' 0 4 = 0xF#4) : ¬ Legal c := by
  rintro ⟨hrsv, hop⟩
  obtain hne | heq | heq := h
  · exact hne hrsv
  · simp [heq] at hop
  · simp [heq] at hop

/-- A command word writes its own response without looking at the last one. -/
@[simp] theorem State.afterCommand_withResponse (s : State) (r : Option Response) (c : Cmd) :
    (s.withResponse r).afterCommand c = s.afterCommand c := by
  cases h : decode c with
  | accept i => rw [State.afterCommand_of_accept h, State.afterCommand_of_accept h]; rfl
  | reject e => rw [State.afterCommand_of_reject h, State.afterCommand_of_reject h]; rfl

/-- A step that takes a command word goes the same way after any response. -/
theorem step_withResponse_of_command {s : State} {c : Cmd} {es : List HostEvent}
    (hin : s.input = .command c :: es) (r : Option Response) : step (s.withResponse r) = step s := by
  have hin' : (s.withResponse r).input = .command c :: es := hin
  rw [step_of_command hin', step_of_command hin]
  exact congrArg _ (State.afterCommand_withResponse (s.withInput es) r c)

/-- The strict view of a step on a command word keeps a next state without a fault mark. -/
theorem stepStrict_of_command {s t : State} {c : Cmd} {es : List HostEvent}
    (hin : s.input = .command c :: es) (hstep : step s = .next t) (ht : t.uninitMark = none) :
    stepStrict s = .next t :=
  (stepStrict_next_iff s t).2 ⟨uninitInFlight_of_command hin, hstep, ht⟩

/-- Settles O6: the illegal word leaves the state but for its response, which the next command does not look at. -/
theorem illegalCommandOnlyReports : Obligations.IllegalCommandOnlyReports := by
  intro s c rest hin hc
  have hstep := step_of_not_legal (not_legal_of_rsv_or_op hc) hin
  refine ⟨hstep, stepStrict_of_command hin hstep, fun c' rest' hrest _ => ?_⟩
  have hin' : (s.withInput rest).input = .command c' :: rest' := hrest
  exact step_withResponse_of_command hin' _

theorem exec_nop (s : State) : exec .nop s = .next { s with response := some ⟨0x0000#16, .ok⟩ } := rfl

/-- Settles O28: NOP keeps the mark of the state, so with none there the strict view goes on. -/
theorem nopDoesNothing : Obligations.NopDoesNothing := by
  refine ⟨fun _ => decode_of_lowHalf .nop, exec_nop, fun s hm => ?_⟩
  rw [execStrict, exec_nop]
  exact (strict_next_iff _ _).2 ⟨rfl, hm⟩

end Sys2Proof.Machine

/-! ## The mark a command leaves, and the outcome the strict view gives it (O56, O7, O13, O14, O53) -/

namespace Sys2Proof.Machine

open Sys2Proof.Certificates

/-! ### The records stay legal -/

/-- The mark a command leaves is the one it found, or its own opcode if it reads `WORD`. -/
theorem State.afterInstr_mark_cases {s : State} {i : Instr} {op : OpCode}
    (h : (s.afterInstr i).uninitMark = some op) :
    s.uninitMark = some op ∨ (readsWord i = true ∧ opcodeOf i = op) := by
  cases hr : readsWord i with
  | false => exact .inl (by simpa [hr] using h)
  | true =>
    cases hv : s.wvalid with
    | true => exact .inl (by simpa [hr, hv] using h)
    | false =>
      cases hm : s.uninitMark with
      | none => exact .inr ⟨rfl, by simpa [hr, hv, hm] using h⟩
      | some mark => exact .inl (by simpa [hr, hv, hm] using h)

/-- The opcodes a fault mark may name are 2 to 12 (60_exceptions.md R151). -/
theorem recordsLegal_iff (s : State) :
    RecordsLegal s ↔
      (∀ op, s.uninitMark = some op → 2 ≤ op.toNat ∧ op.toNat ≤ 12) ∧
      (∀ r, s.response = some r → r.status = .illegal → r.res = 0x0000#16) := by
  have hmem (n : Nat) : n ∈ [2, 3, 4, 5, 6, 7, 8, 9, 10, 11, 12] ↔ 2 ≤ n ∧ n ≤ 12 := by
    simp only [List.mem_cons, List.not_mem_nil, or_false]
    omega
  simp only [RecordsLegal, Option.all_eq_true, decide_eq_true_eq, hmem]

theorem RecordsLegal.afterInstr {s : State} (h : RecordsLegal s) (i : Instr) :
    RecordsLegal (s.afterInstr i) := by
  obtain ⟨hmark, -⟩ := (recordsLegal_iff s).1 h
  refine (recordsLegal_iff _).2 ⟨fun op hop => ?_, by simp⟩
  obtain hfound | ⟨hr, rfl⟩ := State.afterInstr_mark_cases hop
  · exact hmark op hfound
  · exact (readsWord_eq_true_iff i).1 hr

theorem RecordsLegal.afterCommand {s : State} (h : RecordsLegal s) (c : Cmd) :
    RecordsLegal (s.afterCommand c) := by
  cases hd : decode c with
  | accept i => rw [State.afterCommand_of_accept hd]; exact h.afterInstr i
  | reject r =>
    obtain ⟨hmark, -⟩ := h
    rw [State.afterCommand_of_reject hd]
    exact ⟨hmark, rfl⟩

theorem RecordsLegal.afterResetDuring {s : State} (h : RecordsLegal s) (c : Cmd) :
    RecordsLegal (s.afterResetDuring c) := by
  have hdrawn : RecordsLegal s.drawn := h
  obtain ⟨-, hresponse⟩ := hdrawn.afterCommand c
  refine ⟨rfl, ?_⟩
  rw [State.afterResetDuring_response]
  split
  · exact hresponse
  · rfl

/-- Settles O56, event by event: a command marks its own opcode only, and a waiting step or a reset clears what it
does not keep. -/
theorem recordsStayLegal : Obligations.RecordsStayLegal := by
  intro s t h hstep
  have hin (es : List HostEvent) : RecordsLegal (s.withInput es) := h
  obtain ⟨-, rfl⟩ | ⟨c, es, -, rfl⟩ | ⟨es, -, rfl⟩ | ⟨c, es, -, rfl⟩ := step_cases hstep
  · obtain ⟨hmark, -⟩ := h
    exact ⟨hmark, rfl⟩
  · exact (hin es).afterCommand c
  · exact ⟨rfl, rfl⟩
  · exact (hin es).afterResetDuring c

/-! ### Which commands complete, and which are the fault UNINIT -/

/-- Settles O14: every event has a next state, and so has every command, the one `exec_eq` names. -/
theorem stepAlwaysCompletes : Obligations.StepAlwaysCompletes :=
  ⟨exists_step_next, fun i s => ⟨_, exec_eq i s⟩⟩

/-- 60_exceptions.md R150: a command that does not read an unloaded word completes in the strict view too. -/
theorem execStrict_of_readable {i : Instr} {s : State} (hread : readsWord i = true → s.wvalid = true)
    (hm : s.uninitMark = none) : execStrict i s = .next (s.afterInstr i) := by
  have hmark : (s.afterInstr i).uninitMark = none := by
    cases hr : readsWord i with
    | false => simpa [hr] using hm
    | true => simpa [hread hr] using hm
  exact (strict_next_iff _ _).2 ⟨exec_eq i s, hmark⟩

/-- Settles O13: the commands with opcodes 0, 1 and 13 do not read `WORD`, and the others find it loaded. -/
theorem legalCommandsCompleteWithOk : Obligations.LegalCommandsCompleteWithOk := by
  intro i s h
  have hread (hr : readsWord i = true) : s.wvalid = true := by
    refine h.resolve_right fun hop => ?_
    simp [readsWord_eq_false_of_opcodeOf_mem (i := i) (by simpa using hop)] at hr
  exact ⟨_, _, exec_eq i s, rfl, execStrict_of_readable hread⟩

theorem opcode_of_accept {c : Cmd} {i : Instr} (h : decode c = .accept i) :
    c.extractLsb' 0 4 = opcodeOf i := by
  obtain ⟨-, hop, -⟩ := (decode_eq_accept_iff c i).1 h
  exact hop

/-- The strict view of a step on a legal word is that of its command. -/
theorem stepStrict_of_accept {s : State} {c : Cmd} {es : List HostEvent} {i : Instr}
    (hin : s.input = .command c :: es) (hd : decode c = .accept i) :
    stepStrict s = execStrict i (s.withInput es) :=
  (stepStrict_of_none (uninitInFlight_of_command hin)).trans
    (congrArg strict (stepRunsTheDecodedCommand s c es i hin hd))

/-- Settles O7 in the order of R154: legality of the word first, then whether its command reads an unloaded word. -/
theorem outcomesAndTheirCauses : Obligations.OutcomesAndTheirCauses := by
  refine ⟨fun s c rest hin hm => ?_, rfl, rfl⟩
  split
  · next hillegal =>
    have hc : ¬ Legal c := by
      rintro ⟨hrsv, hop⟩
      exact hillegal.elim (absurd hrsv) (by omega)
    exact stepStrict_of_command hin (step_of_not_legal hc hin) hm
  · next hlegal =>
    obtain ⟨hrsv, hassigned⟩ := not_or.1 hlegal
    obtain ⟨i, hi⟩ := (exists_decode_accept_iff_legal c).2 ⟨not_not.1 hrsv, by omega⟩
    have hop := opcode_of_accept hi
    rw [stepStrict_of_accept hin hi, hop]
    rw [hop] at hassigned
    have hreads := readsWord_eq_true_iff i
    split
    · next hok =>
      have hread (hr : readsWord i = true) : s.wvalid = true := by
        refine hok.resolve_right fun hmem => ?_
        simp only [List.mem_cons, List.not_mem_nil, or_false] at hmem
        have hrange := hreads.1 hr
        omega
      exact ⟨_, _, execStrict_of_readable hread hm, rfl⟩
    · next huninit =>
      obtain ⟨hv, hmem⟩ := not_or.1 huninit
      simp only [List.mem_cons, List.not_mem_nil, or_false] at hmem
      exact execStrict_of_unloaded (hreads.2 (by omega)) (Bool.eq_false_iff.2 hv) hm

/-! ### A marked block is stopped until reset -/

/-- 60_exceptions.md R152: the first opcode recorded stays, whatever command word comes. -/
theorem State.afterCommand_uninitMark_of_some {s : State} {op : OpCode} (h : s.uninitMark = some op) (c : Cmd) :
    (s.afterCommand c).uninitMark = some op := by
  cases hd : decode c with
  | accept i => simp [State.afterCommand_of_accept hd, h]
  | reject r => simpa [State.afterCommand_of_reject hd] using h

/-- 60_exceptions.md R151: on the bits of a word, what counts as reading an unloaded word, and under which opcode. -/
theorem unloadedRead_eq_some_iff_legal (v : Bool) (c : Cmd) (op : OpCode) :
    unloadedRead v c = some op ↔
      (Legal c ∧ 2 ≤ (c.extractLsb' 0 4).toNat ∧ (c.extractLsb' 0 4).toNat ≤ 12 ∧ v = false) ∧
        c.extractLsb' 0 4 = op := by
  rw [unloadedRead_eq_some_iff]
  constructor
  · rintro ⟨hv, i, hi, hr, rfl⟩
    have hop := opcode_of_accept hi
    obtain ⟨hlo, hhi⟩ := (readsWord_eq_true_iff i).1 hr
    exact ⟨⟨(exists_decode_accept_iff_legal c).1 ⟨i, hi⟩, hop ▸ hlo, hop ▸ hhi, hv⟩, hop⟩
  · rintro ⟨⟨hlegal, hlo, hhi, hv⟩, rfl⟩
    obtain ⟨i, hi⟩ := (exists_decode_accept_iff_legal c).2 hlegal
    have hop := opcode_of_accept hi
    rw [hop] at hlo hhi
    exact ⟨hv, i, hi, (readsWord_eq_true_iff i).2 ⟨hlo, hhi⟩, hop.symm⟩

/-- Settles O53: the read before LOAD clause by clause, then a step by the event it takes. -/
theorem uninitialisedReadIsRecordedAndStops : Obligations.UninitialisedReadIsRecordedAndStops := by
  refine ⟨fun i s hv hlo hhi => ?_, fun s op hm hin => ?_, fun s op c rest hm hin => ?_, fun s rest hin => ?_,
    fun s c rest hin => ?_⟩
  · have hr := (readsWord_eq_true_iff i).2 ⟨hlo, hhi⟩
    exact ⟨⟨_, _, _, exec_eq i s, exec_eq i _, rfl, rfl, rfl, fun hm => by simp [hr, hv, hm]⟩,
      execStrict_of_unloaded hr hv⟩
  · rw [stepStrict_of_none (uninitInFlight_of_nil hin), step_of_nil hin]
    exact strict_of_mark _ _ hm
  · rw [stepStrict_of_none (uninitInFlight_of_command hin), step_of_command hin]
    exact strict_of_mark _ _ (State.afterCommand_uninitMark_of_some (s := s.withInput rest) hm c)
  · exact ⟨_, (stepStrict_next_iff s _).2 ⟨uninitInFlight_of_reset hin, step_of_reset hin, rfl⟩, rfl⟩
  · have hflight := uninitInFlight_of_resetDuring hin
    have hread := unloadedRead_eq_some_iff_legal s.wvalid c
    split
    · next hcause =>
      rw [(hread _).2 ⟨hcause, rfl⟩] at hflight
      exact stepStrict_of_some hflight
    · next hcause =>
      rw [Option.eq_none_iff_forall_ne_some.2 fun op hop => hcause ((hread op).1 hop).1] at hflight
      exact ⟨_, (stepStrict_next_iff s _).2 ⟨hflight, step_of_resetDuring hin, rfl⟩, rfl⟩

end Sys2Proof.Machine

/-! ## Adjacent edges and their shared bit (O36, O37) -/

namespace Sys2Proof

open Sys2Proof.Machine Sys2Proof.Certificates

/-- 20_memory.md R48: the later commands of a sequence answer from the state the first one leaves. -/
theorem seqAnswers_cons (i : Instr) (is : List Instr) (s : State) (r : Word) :
    SeqAnswers (i :: is) s r ↔ SeqAnswers is (s.afterInstr i) r := by
  rw [SeqAnswers, execSeq_cons, SeqAnswers]

/-- The one result with which a getter answers after two setters. -/
theorem seqAnswers_setSide_setSide_getSide_iff (x y z : Side) (v u : Word) (s : State) (r : Word) :
    SeqAnswers [setSide x v, setSide y u, getSide z] s r ↔
      zext16 (edgeOf z (withEdge y (withEdge x s.word (edgeOperand v)) (edgeOperand u))) = r := by
  rw [seqAnswers_cons, seqAnswers_getSide_iff, State.afterInstr_word, wordAfter_setSide, wordAfter_setSide]

/-- An edge write, seen through another edge that shares one word bit with it: bit `i` of that edge is bit `k` of the
operand, and its other bits are the old ones. -/
theorem getLsbD_zext16_edgeOf_withEdge {x y : Side} {i k : Nat} (hi : i < 5) (hk : k < 5)
    (hshared : wordBit y i = wordBit x k) (hother : ∀ n < 5, n ≠ i → inSpan x (wordBit y n) = false)
    (w d : Word) {j : Nat} (hj : j < 16) :
    (zext16 (edgeOf y (withEdge x w (edgeOperand d)))).getLsbD j =
      if j = i then d.getLsbD k else (zext16 (edgeOf y w)).getLsbD j := by
  obtain hlt | hge : j < 5 ∨ 5 ≤ j := by omega
  · rw [getLsbD_zext16 _ j hj, getLsbD_zext16 _ j hj, getLsbD_edgeOf y _ hlt, getLsbD_edgeOf y _ hlt]
    split
    · next heq => rw [heq, hshared, getLsbD_withEdge_edgeOperand x w d hk]
    · next hne => exact getLsbD_withEdge_of_not_inSpan w _ (wordBit_lt y j) (hother j hlt hne)
  · rw [getLsbD_zext16_edge_of_ge _ hge, getLsbD_zext16_edge_of_ge _ hge, if_neg (by omega)]

/-- 70_reset_and_hazards.md R175: the clockwise next edge reads its old value with bit 0 replaced. -/
theorem zext16_edgeOf_clockwise_withEdge (x : Side) (w d : Word) :
    zext16 (edgeOf (clockwise x) (withEdge x w (edgeOperand d))) =
      (zext16 (edgeOf (clockwise x) w) &&& 0xFFFE#16) ||| ((d >>> 4) &&& 0x0001#16) := by
  have hother : ∀ n < 5, n ≠ 0 → inSpan x (wordBit (clockwise x) n) = false := by cases x <;> decide
  apply BitVec.eq_of_getLsbD_eq
  intro j hj
  rw [getLsbD_zext16_edgeOf_withEdge (by decide) (by decide) (wordBit_four x).symm hother w d hj]
  interval_cases j <;> simp

/-- 70_reset_and_hazards.md R175: the edge before reads its old value with bit 4 replaced. -/
theorem zext16_edgeOf_withEdge_clockwise (x : Side) (w d : Word) :
    zext16 (edgeOf x (withEdge (clockwise x) w (edgeOperand d))) =
      (zext16 (edgeOf x w) &&& 0xFFEF#16) ||| ((d <<< 4) &&& 0x0010#16) := by
  have hother : ∀ n < 5, n ≠ 4 → inSpan (clockwise x) (wordBit x n) = false := by cases x <;> decide
  apply BitVec.eq_of_getLsbD_eq
  intro j hj
  rw [getLsbD_zext16_edgeOf_withEdge (by decide) (by decide) (wordBit_four x) hother w d hj]
  interval_cases j <;> simp

/-- Settles O37: what the neighbours of a written edge read. -/
theorem adjacentEdgeReadsTheWrittenSharedBit : Obligations.AdjacentEdgeReadsTheWrittenSharedBit := by
  refine ⟨fun x d old s h hold => ?_, fun x d old s h hold => ?_, fun s _ hw => ?_⟩
  · rw [(answers_getSide_iff _ h old).1 hold, seqAnswers_getSide_iff, wordAfter_setSide]
    exact zext16_edgeOf_clockwise_withEdge x s.word d
  · rw [(answers_getSide_iff _ h old).1 hold, seqAnswers_getSide_iff, wordAfter_setSide]
    exact zext16_edgeOf_withEdge_clockwise x s.word d
  · refine (seqAnswers_getSide_iff (.setTop 0x0010#16) .right s _).2 ?_
    rw [hw]
    decide

/-- Replacing a bit by one that differs is changing it: bit 0, by the bit 4 of the edge before. -/
theorem replace_bit_zero_of_ne {v u : Word} (h : v.getLsbD 4 ≠ u.getLsbD 0) :
    (u &&& 0x001F#16 &&& 0xFFFE#16) ||| ((v >>> 4) &&& 0x0001#16) = (u &&& 0x001F#16) ^^^ 0x0001#16 := by
  have hbit := Bool.eq_not.2 h
  apply BitVec.eq_of_getLsbD_eq
  intro j hj
  interval_cases j <;> simp_all

/-- Replacing a bit by one that differs is changing it: bit 4, by the bit 0 of the clockwise next edge. -/
theorem replace_bit_four_of_ne {v u : Word} (h : v.getLsbD 4 ≠ u.getLsbD 0) :
    (v &&& 0x001F#16 &&& 0xFFEF#16) ||| ((u <<< 4) &&& 0x0010#16) = (v &&& 0x001F#16) ^^^ 0x0010#16 := by
  have hbit := Bool.eq_not.2 h.symm
  apply BitVec.eq_of_getLsbD_eq
  intro j hj
  interval_cases j <;> simp_all

/-- Settles O36: the edge set last reads back its value; the edge set first then held its own value, of which the
other setter replaces the shared bit by one that differs. -/
theorem earlierEdgeReadsBackDifferently : Obligations.EarlierEdgeReadsBackDifferently := by
  refine ⟨fun x v u s _ hne => ?_, rfl, rfl, rfl, rfl⟩
  simp only [seqAnswers_setSide_setSide_getSide_iff, edgeOf_withEdge_self, zext16_edgeOf_clockwise_withEdge,
    zext16_edgeOf_withEdge_clockwise, zext16_edgeOperand, true_and]
  exact ⟨replace_bit_four_of_ne hne, replace_bit_zero_of_ne hne⟩

end Sys2Proof

/-! ## Reset, and the boot requirement (O50, O51, O54, O55, O57, O59) -/

namespace Sys2Proof.Machine

open Sys2Proof.Certificates

/-! ### The reset signal -/

theorem stepStrict_of_reset {s : State} {es : List HostEvent} (hin : s.input = .reset :: es) :
    stepStrict s = .next (s.withInput es).afterReset :=
  (stepStrict_next_iff s _).2 ⟨uninitInFlight_of_reset hin, step_of_reset hin, rfl⟩

/-- 70_reset_and_hazards.md R170: the platform's signal goes behind what each block has been given. -/
theorem Platform.signalReset_getElem? {p : Platform} {k : Nat} {o : Owned} (hk : p.tiles[k]? = some o) :
    p.signalReset.tiles[k]? = some { o with block := o.block.withInput (o.block.input ++ [.reset]) } := by
  rw [Platform.signalReset, List.getElem?_map, hk, Option.map_some]

/-- Settles O50, clause by clause. -/
theorem resetSignalResets : Obligations.ResetSignalResets :=
  ⟨fun _ _ hin => ⟨_, step_of_reset hin, stepStrict_of_reset hin, rfl, rfl, rfl⟩,
    fun i s h => ⟨_, exec_eq i s, by simp [h]⟩, fun _ _ _ hk => Platform.signalReset_getElem? hk⟩

/-- Settles O57. -/
theorem resetRecordsAreLegal : Obligations.ResetRecordsAreLegal := ⟨rfl, rfl⟩

/-- The response of a command word does not depend on how many free values have been drawn. -/
theorem State.afterCommand_drawn_response (s : State) (c : Cmd) :
    (s.drawn.afterCommand c).response = (s.afterCommand c).response := by
  cases h : decode c with
  | accept i => rw [State.afterCommand_of_accept h, State.afterCommand_of_accept h]; rfl
  | reject r => rw [State.afterCommand_of_reject h, State.afterCommand_of_reject h]; rfl

/-- Settles O51: the free value decides which of the two responses is there. -/
theorem resetInFlightEndsInTheResetState : Obligations.ResetInFlightEndsInTheResetState := by
  intro s c rest hin
  refine ⟨_, step_of_resetDuring hin, rfl, rfl, rfl, ?_⟩
  rw [State.afterResetDuring_response]
  split
  · exact .inr ⟨_, step_of_command rfl, State.afterCommand_drawn_response (s.withInput rest) c⟩
  · exact .inl rfl

/-! ### The boot requirement, step by step -/

/-- 60_exceptions.md R151: a command word on an unmarked state leaves the mark that `unloadedRead` names. -/
theorem State.afterCommand_uninitMark_of_none {s : State} (hm : s.uninitMark = none) (c : Cmd) :
    (s.afterCommand c).uninitMark = unloadedRead s.wvalid c := by
  cases hd : decode c with
  | accept i =>
    rw [State.afterCommand_of_accept hd]
    cases hr : readsWord i <;> cases hv : s.wvalid <;> simp [unloadedRead, hd, hr, hv, hm]
  | reject r => simpa [State.afterCommand_of_reject hd, unloadedRead_of_reject hd] using hm

/-- A step that goes on in the strict view leaves the boot requirement exactly as it stood: the event it took
asked nothing more. -/
theorem loadFirst_of_stepStrict {s t : State} (h : stepStrict s = .next t) :
    loadFirst t.wvalid t.input = loadFirst s.wvalid s.input := by
  obtain ⟨hflight, hstep, hmark⟩ := (stepStrict_next_iff s t).1 h
  obtain ⟨-, rfl⟩ | ⟨c, es, hin, rfl⟩ | ⟨es, hin, rfl⟩ | ⟨c, es, hin, rfl⟩ := step_cases hstep
  · rfl
  · have hread : unloadedRead s.wvalid c = none := unloadedRead_of_unmarked (s := s.withInput es) hmark
    simp [hin, loadFirst, hread]
  · simp [hin, loadFirst]
  · have hread : unloadedRead s.wvalid c = none := by
      simpa [uninitInFlight_of_resetDuring hin] using hflight
    simp [hin, loadFirst, hread]

/-- 70_reset_and_hazards.md R172: no unloaded read is on record, and none is among the events to come. -/
abbrev MeetsBootRequirement (s : State) : Prop :=
  s.uninitMark = none ∧ loadFirst s.wvalid s.input = true

/-- A block that meets the boot requirement goes on in the strict view. -/
theorem MeetsBootRequirement.exists_stepStrict {s : State} (h : MeetsBootRequirement s) :
    ∃ t, stepStrict s = .next t := by
  obtain ⟨hm, hload⟩ := h
  match hin : s.input with
  | [] => exact ⟨_, (stepStrict_next_iff s _).2 ⟨uninitInFlight_of_nil hin, step_of_nil hin, hm⟩⟩
  | .reset :: es => exact ⟨_, stepStrict_of_reset hin⟩
  | .command c :: es =>
    obtain ⟨hread, -⟩ : unloadedRead s.wvalid c = none ∧ _ := by simpa [hin, loadFirst] using hload
    exact ⟨_, stepStrict_of_command hin (step_of_command hin)
      ((State.afterCommand_uninitMark_of_none (s := s.withInput es) hm c).trans hread)⟩
  | .resetDuring c :: es =>
    obtain ⟨hread, -⟩ : unloadedRead s.wvalid c = none ∧ _ := by simpa [hin, loadFirst] using hload
    have hflight : uninitInFlight s = none := by simp [uninitInFlight_of_resetDuring hin, hread]
    exact ⟨_, (stepStrict_next_iff s _).2 ⟨hflight, step_of_resetDuring hin, rfl⟩⟩

/-- The strict step goes on, so it leaves no mark, and the boot requirement as it stood. -/
theorem MeetsBootRequirement.stepStrict_keeps {s : State} (h : MeetsBootRequirement s) :
    ∃ t, stepStrict s = .next t ∧ MeetsBootRequirement t := by
  obtain ⟨t, ht⟩ := h.exists_stepStrict
  obtain ⟨-, -, hmark⟩ := (stepStrict_next_iff s t).1 ht
  obtain ⟨-, hload⟩ := h
  exact ⟨t, ht, hmark, (loadFirst_of_stepStrict ht).trans hload⟩

/-- Settles O59. -/
theorem bootRequirementIsKept : Obligations.BootRequirementIsKept :=
  fun _ hm hload => MeetsBootRequirement.stepStrict_keeps ⟨hm, hload⟩

/-! ### Runs in the strict view -/

/-- What lets every step of the strict view go on, and is kept by it, does so along every run. -/
theorem exists_runStrict_of_invariant {P : State → Prop} (hP : ∀ s, P s → ∃ t, stepStrict s = .next t ∧ P t)
    (k : Nat) {s : State} (hs : P s) : ∃ t, runStrict k s = .next t ∧ P t := by
  induction k generalizing s with
  | zero => exact ⟨s, rfl, hs⟩
  | succ k ih =>
    obtain ⟨u, hu, hPu⟩ := hP s hs
    rw [runStrict_succ_of_next hu]
    exact ih hPu

/-- Where every run goes on, the next step does, and every run from there. -/
theorem exists_stepStrict_of_runs {s : State} (h : ∀ k, ∃ t, runStrict k s = .next t) :
    ∃ u, stepStrict s = .next u ∧ ∀ k, ∃ t, runStrict k u = .next t := by
  cases hs : stepStrict s with
  | next u => exact ⟨u, rfl, fun k => runStrict_succ_of_next hs k ▸ h (k + 1)⟩
  | fault r => simpa [runStrict, hs] using h 1
  | refused r => simpa [runStrict, hs] using h 1

/-- A step takes the first event to come, if there is one. -/
theorem step_input {s t : State} (h : step s = .next t) : t.input = s.input.tail := by
  obtain ⟨hin, rfl⟩ | ⟨_, _, hin, rfl⟩ | ⟨_, hin, rfl⟩ | ⟨_, _, hin, rfl⟩ := step_cases h <;> simp [hin]

/-- Where every run goes on, the events to come meet the boot requirement: by induction on them, since each step
takes one and leaves the requirement as it stood. -/
theorem loadFirst_of_runs {s : State} (h : ∀ k, ∃ t, runStrict k s = .next t) :
    loadFirst s.wvalid s.input = true := by
  induction hin : s.input generalizing s with
  | nil => rfl
  | cons e es ih =>
    obtain ⟨u, hu, hruns⟩ := exists_stepStrict_of_runs h
    obtain ⟨-, hstep, -⟩ := (stepStrict_next_iff s u).1 hu
    have htail : u.input = es := by simpa [hin] using step_input hstep
    rw [← hin, ← loadFirst_of_stepStrict hu, htail]
    exact ih hruns htail

/-- Settles O54: the boot requirement is the invariant of the runs that go on. -/
theorem loadFirstIsExactlyWhatARunNeeds : Obligations.LoadFirstIsExactlyWhatARunNeeds := by
  refine fun s hm => ⟨loadFirst_of_runs, fun hload k => ?_⟩
  have hs : MeetsBootRequirement s := ⟨hm, hload⟩
  obtain ⟨t, ht, -⟩ := exists_runStrict_of_invariant (fun _ => MeetsBootRequirement.stepStrict_keeps) k hs
  exact ⟨t, ht⟩

/-! ### A loaded tile -/

/-- With plain commands to come, a loaded word meets the boot requirement, and a step keeps it loaded. -/
theorem Booted.exists_stepStrict {s : State} (h : Booted s) :
    ∃ t, stepStrict s = .next t ∧ step s = .next t ∧ Booted t := by
  obtain ⟨hv, hm, hall⟩ := h
  match hin : s.input with
  | [] =>
    have hstep := step_of_nil hin
    exact ⟨_, (stepStrict_next_iff s _).2 ⟨uninitInFlight_of_nil hin, hstep, hm⟩, hstep, hv, hm, hall⟩
  | .command c :: es =>
    have hstep := step_of_command hin
    have hmark : ((s.withInput es).afterCommand c).uninitMark = none := by
      rw [State.afterCommand_uninitMark_of_none (s := s.withInput es) hm, State.withInput_wvalid, hv,
        unloadedRead_of_loaded]
    obtain ⟨-, hrest⟩ : HostEvent.isCommand (.command c) = true ∧ es.all HostEvent.isCommand = true := by
      rwa [hin, List.all_cons, Bool.and_eq_true] at hall
    exact ⟨_, stepStrict_of_command hin hstep hmark, hstep, by simp [hv], hmark, by simpa using hrest⟩
  | .reset :: es => simp [hin, HostEvent.isCommand] at hall
  | .resetDuring c :: es => simp [hin, HostEvent.isCommand] at hall

/-- Settles O55: the step keeps the state booted, so every run does. -/
theorem loadedTileStaysUsable : Obligations.LoadedTileStaysUsable := by
  refine ⟨fun s => Booted.exists_stepStrict, fun k s => exists_runStrict_of_invariant (fun s h => ?_) k,
    fun w s => (seqLeaves_iff _ s w).2 rfl⟩
  obtain ⟨t, ht, -, hbooted⟩ := h.exists_stepStrict
  exact ⟨t, ht, hbooted⟩

end Sys2Proof.Machine
